-- ==== Sys2Proof/Word.lean ====
section
/-! DEFINITION. The word types of the powercom decoder core (spec/30_encoding.md R80). -/

namespace Sys2Proof

/-- An unsigned byte (00_scope.md R18): INBYTE, CFG, `shift`, payload and output bytes. -/
abbrev Byte := BitVec 8

/-- The host command word HOSTCMD: OP in bits 10:8, ARG in bits 7:0 (30_encoding.md R89). -/
abbrev HostWord := BitVec 11

/-- The step key STEPKEY of one sample step (30_encoding.md R93). -/
abbrev StepKey := BitVec 9

/-- The STATUS word (30_encoding.md R87). -/
abbrev StatusWord := BitVec 16

end Sys2Proof
end

