-- ==== Sys2Proof/Syntax.lean ====
section
/-! DEFINITION. The instructions: one constructor for each row of spec/opcode_table.json. -/

namespace Sys2Proof

/-- The host operations (spec/43_host_ops.md) and the transition rules of one sample step
(spec/41_packet.md, spec/42_character.md). A host operation carries its ARG byte, also where it is
ignored (30_encoding.md R91). A transition rule carries the step-key bits its row does not fix
(30_encoding.md R96), under the names of 30_encoding.md R93: `m` mode, `e` edge, `v` sample value, `d` due,
`l` stop bit, `w1` and `w4` window matches. -/
inductive Instr where
  /-- NOP, 43_host_ops.md R221 -/
  | nop (arg : Byte)
  /-- OPEN, 43_host_ops.md R222 -/
  | openSession (cfg : Byte)
  /-- CLOSE, 43_host_ops.md R223 -/
  | closeSession (arg : Byte)
  /-- PUSH, 43_host_ops.md R224 -/
  | push (b : Byte)
  /-- POP, 43_host_ops.md R225 -/
  | pop (arg : Byte)
  /-- STATUS, 43_host_ops.md R227 -/
  | status (arg : Byte)
  /-- CLRERR, 43_host_ops.md R228 -/
  | clrerr (arg : Byte)
  /-- the reserved OP 111, 43_host_ops.md R229 -/
  | reserved111 (arg : Byte)
  /-- P_IDLE_QUIET, 41_packet.md R151 -/
  | pIdleQuiet (v d l w1 w4 : Bool)
  /-- P_IDLE_EDGE_SYNC1, 41_packet.md R152 -/
  | pIdleEdgeSync1 (v d l w4 : Bool)
  /-- P_IDLE_EDGE_NOISE, 41_packet.md R153 -/
  | pIdleEdgeNoise (v d l w4 : Bool)
  /-- P_PRE_QUIET, 41_packet.md R154 -/
  | pPreQuiet (v d l w1 w4 : Bool)
  /-- P_PRE_EDGE_START, 41_packet.md R155 -/
  | pPreEdgeStart (v d l w1 : Bool)
  /-- P_PRE_EDGE_EXTEND, 41_packet.md R156 -/
  | pPreEdgeExtend (v d l : Bool)
  /-- P_PRE_EDGE_LOST, 41_packet.md R157 -/
  | pPreEdgeLost (v d l : Bool)
  /-- P_RX_WAIT, 41_packet.md R158 -/
  | pRxWait (e v l w1 w4 : Bool)
  /-- P_RX_BIT, 41_packet.md R159 -/
  | pRxBit (e v l w1 w4 : Bool)
  /-- C_IDLE_QUIET, 42_character.md R191 -/
  | cIdleQuiet (v d l w1 w4 : Bool)
  /-- C_IDLE_RISE, 42_character.md R192 -/
  | cIdleRise (d l w1 w4 : Bool)
  /-- C_IDLE_FALL, 42_character.md R193 -/
  | cIdleFall (d l w1 w4 : Bool)
  /-- C_RX_WAIT, 42_character.md R194 -/
  | cRxWait (e v l w1 w4 : Bool)
  /-- C_RX_DATA, 42_character.md R195 -/
  | cRxData (e v w1 w4 : Bool)
  /-- C_RX_STOP_OK, 42_character.md R196 -/
  | cRxStopOk (e w1 w4 : Bool)
  /-- C_RX_STOP_ERR, 42_character.md R197 -/
  | cRxStopErr (e w1 w4 : Bool)
  /-- STEPKEY_RESERVED, `S = 11`, 30_encoding.md R95 -/
  | stepkeyReserved (m e v d l w1 w4 : Bool)
  /-- STEPKEY_RESERVED_CHAR_PRE, `M = 1` with `S = 01`, 30_encoding.md R95 -/
  | stepkeyReservedCharPre (e v d l w1 w4 : Bool)
  deriving DecidableEq, Repr

end Sys2Proof
end

