-- ==== Sys2Proof/WellFormed.lean ====
section
/-! DEFINITION. Which instructions a host program or a sample step may hold. Decoding and the machine do
not ask for it: a well-formed instruction is one a reachable run of a legal host program performs. -/

namespace Sys2Proof

/-- The key-field relations of spec/30_encoding.md R94 between the bits a row leaves free, given the edge
bit: no window matches without an edge, and never both windows. -/
def keyWindowsOk (e w1 w4 : Bool) : Bool := (e || (!w1 && !w4)) && !(w1 && w4)

/-- Well-formedness. Host operations: OP 111 is reserved and a program that uses it is refused
(43_host_ops.md R229). Step-key rows: the relations of 30_encoding.md R94 hold (`d` only in RECEIVE, `l` only
in Character RECEIVE, the windows as `keyWindowsOk` says) and the key is not reserved (R95). -/
def Instr.wellFormed : Instr → Bool
  | .nop _ => true
  | .openSession _ => true
  | .closeSession _ => true
  | .push _ => true
  | .pop _ => true
  | .status _ => true
  | .clrerr _ => true
  | .reserved111 _ => false
  | .pIdleQuiet _ d l w1 w4 => !d && !l && keyWindowsOk false w1 w4
  | .pIdleEdgeSync1 _ d l w4 => !d && !l && keyWindowsOk true true w4
  | .pIdleEdgeNoise _ d l w4 => !d && !l && keyWindowsOk true false w4
  | .pPreQuiet _ d l w1 w4 => !d && !l && keyWindowsOk false w1 w4
  | .pPreEdgeStart _ d l w1 => !d && !l && keyWindowsOk true w1 true
  | .pPreEdgeExtend _ d l => !d && !l
  | .pPreEdgeLost _ d l => !d && !l
  | .pRxWait e _ l w1 w4 => !l && keyWindowsOk e w1 w4
  | .pRxBit e _ l w1 w4 => !l && keyWindowsOk e w1 w4
  | .cIdleQuiet _ d l w1 w4 => !d && !l && keyWindowsOk false w1 w4
  | .cIdleRise d l w1 w4 => !d && !l && keyWindowsOk true w1 w4
  | .cIdleFall d l w1 w4 => !d && !l && keyWindowsOk true w1 w4
  | .cRxWait e _ _ w1 w4 => keyWindowsOk e w1 w4
  | .cRxData e _ w1 w4 => keyWindowsOk e w1 w4
  | .cRxStopOk e w1 w4 => keyWindowsOk e w1 w4
  | .cRxStopErr e w1 w4 => keyWindowsOk e w1 w4
  | .stepkeyReserved .. => false
  | .stepkeyReservedCharPre .. => false

end Sys2Proof
end

