-- ==== Sys2Proof/Decode.lean ====
section
/-! DEFINITION. Decoding and encoding of host command words (spec/30_encoding.md R89, R90) and of step keys
(R93, R95, R96), and the opcode table's patterns. -/

namespace Sys2Proof

/-- The two encoded formats the core dispatches on (30_encoding.md R80). -/
inductive Format where
  | hostCmd
  | stepKey
  deriving DecidableEq, Repr

/-- An encoded word in its format. The two formats overlap as numbers, so the format is part of the word. -/
inductive MachineWord where
  | hostCmd (w : HostWord)
  | stepKey (k : StepKey)
  deriving DecidableEq, Repr

/-- Why a number is not a word of a format. -/
inductive DecodeError where
  /-- a bit above bit 10 is set in a host command word -/
  | hostWordTooWide
  /-- a bit above bit 8 is set in a step key -/
  | stepKeyTooWide
  deriving DecidableEq, Repr

/-! ## Decoding -/

/-- ARG, bits 7:0 of a host command word (30_encoding.md R89). -/
def hostArg (w : HostWord) : Byte := w.setWidth 8

/-- Decoding of a host command word by its OP field (30_encoding.md R90); every word is one of the eight. -/
def decodeHostCmd (w : HostWord) : Instr :=
  match w.getLsbD 10, w.getLsbD 9, w.getLsbD 8 with
  | false, false, false => .nop (hostArg w)
  | false, false, true => .openSession (hostArg w)
  | false, true, false => .closeSession (hostArg w)
  | false, true, true => .push (hostArg w)
  | true, false, false => .pop (hostArg w)
  | true, false, true => .status (hostArg w)
  | true, true, false => .clrerr (hostArg w)
  | true, true, true => .reserved111 (hostArg w)

/-- The row of 30_encoding.md R96 that a key selects, from the key's fields in the order of R93, with the two
bits of S apart. Every combination selects one row or one of the two reserved patterns of R95. -/
def rowOfFields (m s1 s0 e v d l w1 w4 : Bool) : Instr :=
  match m, s1, s0 with
  | false, false, false =>
    if e then (if w1 then .pIdleEdgeSync1 v d l w4 else .pIdleEdgeNoise v d l w4)
    else .pIdleQuiet v d l w1 w4
  | false, false, true =>
    if e then
      (if w4 then .pPreEdgeStart v d l w1
       else if w1 then .pPreEdgeExtend v d l else .pPreEdgeLost v d l)
    else .pPreQuiet v d l w1 w4
  | false, true, false => if d then .pRxBit e v l w1 w4 else .pRxWait e v l w1 w4
  | true, false, false =>
    if e then (if v then .cIdleRise d l w1 w4 else .cIdleFall d l w1 w4)
    else .cIdleQuiet v d l w1 w4
  | true, true, false =>
    if d then
      (if l then (if v then .cRxStopErr e w1 w4 else .cRxStopOk e w1 w4) else .cRxData e v w1 w4)
    else .cRxWait e v l w1 w4
  | true, false, true => .stepkeyReservedCharPre e v d l w1 w4
  | m, true, true => .stepkeyReserved m e v d l w1 w4

/-- Decoding of a step key (30_encoding.md R93, R96). -/
def decodeStepKey (k : StepKey) : Instr :=
  rowOfFields (k.getLsbD 8) (k.getLsbD 7) (k.getLsbD 6) (k.getLsbD 5) (k.getLsbD 4) (k.getLsbD 3)
    (k.getLsbD 2) (k.getLsbD 1) (k.getLsbD 0)

/-- Decoding of a word in its format. -/
def decode : MachineWord → Instr
  | .hostCmd w => decodeHostCmd w
  | .stepKey k => decodeStepKey k

/-- The number `n` as a word of format `f`, rejected by name where it has a bit the format does not have. -/
def wordOfNat (f : Format) (n : Nat) : Except DecodeError MachineWord :=
  match f with
  | .hostCmd => if n < 2 ^ 11 then .ok (.hostCmd (BitVec.ofNat 11 n)) else .error .hostWordTooWide
  | .stepKey => if n < 2 ^ 9 then .ok (.stepKey (BitVec.ofNat 9 n)) else .error .stepKeyTooWide

/-- The decoder on any number: total, rejecting by name. -/
def decodeNat (f : Format) (n : Nat) : Except DecodeError Instr :=
  match wordOfNat f n with
  | .ok w => .ok (decode w)
  | .error e => .error e

/-- The format of the number `n` given as a word of `nbits` bits. At most 9 bits are a step key, 10 or 11 bits a
host command word. DESIGN CHOICE (log 7): the two tables of the opcode table share their numbers, so a wider
container does not say which is meant; there a number below 512 with a low byte other than 0 is a step key, and
any other number is a host command word. -/
def formatOf (nbits n : Nat) : Format :=
  if nbits ≤ 9 then .stepKey
  else if nbits ≤ 11 then .hostCmd
  else if n < 2 ^ 9 ∧ n % 2 ^ 8 ≠ 0 then .stepKey else .hostCmd

/-- The instruction the decoder reads from a word of `nbits` bits numbered as spec/opcode_table.json numbers
them. -/
def decodeTableWord (nbits w : Nat) : Option Instr :=
  match decodeNat (formatOf nbits w) w with
  | .ok i => some i
  | .error _ => none

/-! ## Encoding -/

/-- A host command word from OP and ARG (30_encoding.md R89). -/
def hostWord (op : BitVec 3) (arg : Byte) : HostWord := op ++ arg

/-- A step key from its fields, most significant first (30_encoding.md R93). -/
def keyWord (m : Bool) (st : BitVec 2) (e v d l w1 w4 : Bool) : StepKey :=
  BitVec.ofBool m ++ st ++ BitVec.ofBool e ++ BitVec.ofBool v ++ BitVec.ofBool d ++ BitVec.ofBool l
    ++ BitVec.ofBool w1 ++ BitVec.ofBool w4

/-- The word of an instruction: the OP codes of 30_encoding.md R90 and the fixed bits of R96's rows. -/
def encode : Instr → MachineWord
  | .nop a => .hostCmd (hostWord 0b000#3 a)
  | .openSession a => .hostCmd (hostWord 0b001#3 a)
  | .closeSession a => .hostCmd (hostWord 0b010#3 a)
  | .push a => .hostCmd (hostWord 0b011#3 a)
  | .pop a => .hostCmd (hostWord 0b100#3 a)
  | .status a => .hostCmd (hostWord 0b101#3 a)
  | .clrerr a => .hostCmd (hostWord 0b110#3 a)
  | .reserved111 a => .hostCmd (hostWord 0b111#3 a)
  | .pIdleQuiet v d l w1 w4 => .stepKey (keyWord false 0b00#2 false v d l w1 w4)
  | .pIdleEdgeSync1 v d l w4 => .stepKey (keyWord false 0b00#2 true v d l true w4)
  | .pIdleEdgeNoise v d l w4 => .stepKey (keyWord false 0b00#2 true v d l false w4)
  | .pPreQuiet v d l w1 w4 => .stepKey (keyWord false 0b01#2 false v d l w1 w4)
  | .pPreEdgeStart v d l w1 => .stepKey (keyWord false 0b01#2 true v d l w1 true)
  | .pPreEdgeExtend v d l => .stepKey (keyWord false 0b01#2 true v d l true false)
  | .pPreEdgeLost v d l => .stepKey (keyWord false 0b01#2 true v d l false false)
  | .pRxWait e v l w1 w4 => .stepKey (keyWord false 0b10#2 e v false l w1 w4)
  | .pRxBit e v l w1 w4 => .stepKey (keyWord false 0b10#2 e v true l w1 w4)
  | .cIdleQuiet v d l w1 w4 => .stepKey (keyWord true 0b00#2 false v d l w1 w4)
  | .cIdleRise d l w1 w4 => .stepKey (keyWord true 0b00#2 true true d l w1 w4)
  | .cIdleFall d l w1 w4 => .stepKey (keyWord true 0b00#2 true false d l w1 w4)
  | .cRxWait e v l w1 w4 => .stepKey (keyWord true 0b10#2 e v false l w1 w4)
  | .cRxData e v w1 w4 => .stepKey (keyWord true 0b10#2 e v true false w1 w4)
  | .cRxStopOk e w1 w4 => .stepKey (keyWord true 0b10#2 e false true true w1 w4)
  | .cRxStopErr e w1 w4 => .stepKey (keyWord true 0b10#2 e true true true w1 w4)
  | .stepkeyReserved m e v d l w1 w4 => .stepKey (keyWord m 0b11#2 e v d l w1 w4)
  | .stepkeyReservedCharPre e v d l w1 w4 => .stepKey (keyWord true 0b01#2 e v d l w1 w4)

/-! ## The opcode table -/

/-- One row of spec/opcode_table.json: the bits its encoding fixes and their values, as the table's
`mask` and `match` give them. -/
structure TableRow where
  format : Format
  mask : Nat
  pattern : Nat
  deriving DecidableEq, Repr

/-- The table's row of each instruction, copied from spec/opcode_table.json. -/
def tableRow : Instr → TableRow
  | .nop _ => ⟨.hostCmd, 0x700, 0x000⟩
  | .openSession _ => ⟨.hostCmd, 0x700, 0x100⟩
  | .closeSession _ => ⟨.hostCmd, 0x700, 0x200⟩
  | .push _ => ⟨.hostCmd, 0x700, 0x300⟩
  | .pop _ => ⟨.hostCmd, 0x700, 0x400⟩
  | .status _ => ⟨.hostCmd, 0x700, 0x500⟩
  | .clrerr _ => ⟨.hostCmd, 0x700, 0x600⟩
  | .reserved111 _ => ⟨.hostCmd, 0x700, 0x700⟩
  | .pIdleQuiet .. => ⟨.stepKey, 0x1E0, 0x000⟩
  | .pIdleEdgeSync1 .. => ⟨.stepKey, 0x1E2, 0x022⟩
  | .pIdleEdgeNoise .. => ⟨.stepKey, 0x1E2, 0x020⟩
  | .pPreQuiet .. => ⟨.stepKey, 0x1E0, 0x040⟩
  | .pPreEdgeStart .. => ⟨.stepKey, 0x1E1, 0x061⟩
  | .pPreEdgeExtend .. => ⟨.stepKey, 0x1E3, 0x062⟩
  | .pPreEdgeLost .. => ⟨.stepKey, 0x1E3, 0x060⟩
  | .pRxWait .. => ⟨.stepKey, 0x1C8, 0x080⟩
  | .pRxBit .. => ⟨.stepKey, 0x1C8, 0x088⟩
  | .cIdleQuiet .. => ⟨.stepKey, 0x1E0, 0x100⟩
  | .cIdleRise .. => ⟨.stepKey, 0x1F0, 0x130⟩
  | .cIdleFall .. => ⟨.stepKey, 0x1F0, 0x120⟩
  | .cRxWait .. => ⟨.stepKey, 0x1C8, 0x180⟩
  | .cRxData .. => ⟨.stepKey, 0x1CC, 0x188⟩
  | .cRxStopOk .. => ⟨.stepKey, 0x1DC, 0x18C⟩
  | .cRxStopErr .. => ⟨.stepKey, 0x1DC, 0x19C⟩
  | .stepkeyReserved .. => ⟨.stepKey, 0x0C0, 0x0C0⟩
  | .stepkeyReservedCharPre .. => ⟨.stepKey, 0x1C0, 0x140⟩

/-- The eight host-operation rows of the table (30_encoding.md R90). -/
def hostRows : List TableRow :=
  [⟨.hostCmd, 0x700, 0x000⟩, ⟨.hostCmd, 0x700, 0x100⟩, ⟨.hostCmd, 0x700, 0x200⟩,
   ⟨.hostCmd, 0x700, 0x300⟩, ⟨.hostCmd, 0x700, 0x400⟩, ⟨.hostCmd, 0x700, 0x500⟩,
   ⟨.hostCmd, 0x700, 0x600⟩, ⟨.hostCmd, 0x700, 0x700⟩]

/-- The sixteen transition-rule rows of 30_encoding.md R96, in its order. -/
def transitionRows : List TableRow :=
  [⟨.stepKey, 0x1E0, 0x000⟩, ⟨.stepKey, 0x1E2, 0x022⟩, ⟨.stepKey, 0x1E2, 0x020⟩,
   ⟨.stepKey, 0x1E0, 0x040⟩, ⟨.stepKey, 0x1E1, 0x061⟩, ⟨.stepKey, 0x1E3, 0x062⟩,
   ⟨.stepKey, 0x1E3, 0x060⟩, ⟨.stepKey, 0x1C8, 0x080⟩, ⟨.stepKey, 0x1C8, 0x088⟩]
  ++
  [⟨.stepKey, 0x1E0, 0x100⟩, ⟨.stepKey, 0x1F0, 0x130⟩, ⟨.stepKey, 0x1F0, 0x120⟩,
   ⟨.stepKey, 0x1C8, 0x180⟩, ⟨.stepKey, 0x1CC, 0x188⟩, ⟨.stepKey, 0x1DC, 0x18C⟩,
   ⟨.stepKey, 0x1DC, 0x19C⟩]

/-- The two reserved step-key rows (30_encoding.md R95). -/
def reservedRows : List TableRow := [⟨.stepKey, 0x0C0, 0x0C0⟩, ⟨.stepKey, 0x1C0, 0x140⟩]

/-- Whether a word is of the row's format and has the row's fixed bits. -/
def TableRow.matches (r : TableRow) : MachineWord → Bool
  | .hostCmd w => r.format == .hostCmd && w.toNat &&& r.mask == r.pattern
  | .stepKey k => r.format == .stepKey && k.toNat &&& r.mask == r.pattern

end Sys2Proof
end

