-- ==== Sys2Proof/Config.lean ====
section
/-! DEFINITION. The implementation parameters the spec leaves to a build (spec/00_scope.md R6 to R16,
spec/93_implementation_defined.md P1 to P10), their defaults, and the constants it fixes. -/

namespace Sys2Proof.Config

/-- WINDOW_FORM (00_scope.md R8): how the tolerance scales with the expected multiple. -/
inductive WindowForm where
  | absolute
  | relative
  deriving DecidableEq, Repr

/-- WINDOW_BOUNDS (00_scope.md R9): whether a deviation equal to the permitted one is accepted. -/
inductive WindowBounds where
  /-- rejected -/
  | opened
  /-- accepted -/
  | closed
  deriving DecidableEq, Repr

/-- POLARITY_LATCH (00_scope.md R14): how `invert` is latched at the start-of-frame edge. -/
inductive PolarityLatch where
  | asSample
  | complement
  deriving DecidableEq, Repr

/-- The parameters of one build. They are arguments of the model and never change while it runs
(10_state.md R20); assumption log 1 says why State carries them. -/
structure Params where
  /-- BIT_PERIOD, written `P` (00_scope.md R6). -/
  bitPeriod : Nat
  /-- TOL_NUM (00_scope.md R7). -/
  tolNum : Nat
  /-- TOL_DEN (00_scope.md R7). -/
  tolDen : Nat
  /-- WINDOW_FORM (00_scope.md R8). -/
  windowForm : WindowForm
  /-- WINDOW_BOUNDS (00_scope.md R9). -/
  windowBounds : WindowBounds
  /-- FIRST_OFFSET (00_scope.md R10). -/
  firstOffset : Nat
  /-- MAX_LEN (00_scope.md R11). -/
  maxLen : Nat
  /-- POLARITY_LATCH (00_scope.md R14). -/
  polarityLatch : PolarityLatch
  /-- INIT_PREV_SAMPLE (00_scope.md R15). -/
  initPrevSample : Bool
  /-- INIT_LAST_EDGE (00_scope.md R15). -/
  initLastEdge : Int
  /-- INDEX_WIDTH (00_scope.md R16); `none` is the reference semantics, whose counters are unbounded. -/
  indexWidth : Option Nat
  deriving DecidableEq, Repr

/-- TEST_LEN (00_scope.md R12). -/
def testLen : Nat := 2

/-- DATA_BITS (00_scope.md R13). -/
def dataBits : Nat := 7

/-- LEN_BITS (00_scope.md R11). -/
def lenBits : Nat := 8

/-- The default FIRST_OFFSET, `ceil(1.5 × P)` (00_scope.md R10). -/
def defaultFirstOffset (p : Nat) : Nat := (3 * p + 1) / 2

/-- The FIRST_OFFSET of a model at bit period `p`: the default, overridden to 1 at `P = 1`, where the default would
read every bit one cell late (70_reset_and_hazards.md R302; log 23). -/
def modelFirstOffset (p : Nat) : Nat := if p = 1 then 1 else defaultFirstOffset p

/-- The parameters of a model at bit period `p`: the defaults of 93_implementation_defined.md section 2, with
FIRST_OFFSET overridden at `P = 1` (70_reset_and_hazards.md R302). -/
def withPeriod (p : Nat) : Params where
  bitPeriod := p
  tolNum := 2
  tolDen := 5
  windowForm := .absolute
  windowBounds := .opened
  firstOffset := modelFirstOffset p
  maxLen := 16
  polarityLatch := .asSample
  initPrevSample := false
  initLastEdge := 0
  indexWidth := none

/-- The parameters `State.reset` is written with. DESIGN CHOICE (log 2): BIT_PERIOD is OPEN in the spec;
4 is the period of the conventions of 95_test_vectors.md. Unsafe for a claim about `State.reset` that
reads the period; the claims of this package are about every parameter record. -/
def default : Params := withPeriod 4

end Sys2Proof.Config
end

