-- ==== Sys2Proof/Machine/State.lean ====
section
/-! DEFINITION. The state of the core (spec/10_state.md), the reasons a step stops, and hardware reset. -/

namespace Sys2Proof.Machine

open Sys2Proof.Config

/-- The framing state, 2 bits (10_state.md R26). `code11` is the fourth code, which no reachable state holds
and at which a sample step faults (30_encoding.md R95). -/
inductive FState where
  | idle
  | preamble
  | receive
  | code11
  deriving DecidableEq, Repr

/-- The latched configuration, 3 bits (10_state.md R33). -/
structure Cfg where
  /-- false: Packet mode, true: Character mode -/
  mode : Bool
  /-- Packet-mode test mode -/
  test : Bool
  /-- the debug option, read by no rule (60_exceptions.md R270) -/
  debug : Bool
  deriving DecidableEq, Repr

/-- The kind of an output unit, 2 bits (30_encoding.md R106). -/
inductive UnitKind where
  | none
  | packet
  | char
  | testLine
  deriving DecidableEq, Repr

/-- An output unit (30_encoding.md R102). -/
structure OutUnit where
  kind : UnitKind
  count : Nat
  bytes : List Byte
  deriving DecidableEq, Repr

/-- The NONE unit: kind 0, count 0, no bytes (30_encoding.md R106). -/
def OutUnit.empty : OutUnit := ⟨.none, 0, []⟩

/-- The event codes that name a condition (60_exceptions.md R251). TIMING_MISMATCH and NONE appear in no
result; codes 6 and 7 are reserved and have no name. -/
inductive EventCode where
  | none
  | timingMismatch
  | lengthReject
  | framingError
  | integrityFail
  | sessionEnd
  deriving DecidableEq, Repr

/-- The info of an event record (60_exceptions.md R251). -/
inductive EventInfo where
  | none
  /-- the decoded length of LENGTH_REJECT -/
  | length (l : Nat)
  /-- the seven data bits of FRAMING_ERROR -/
  | data (b : Byte)
  /-- `(id, check)` of INTEGRITY_FAIL -/
  | pair (id check : Byte)
  deriving DecidableEq, Repr

/-- An event record (60_exceptions.md R251). -/
structure Event where
  code : EventCode
  info : EventInfo
  deriving DecidableEq, Repr

/-- The `data` of a result record (43_host_ops.md R220). -/
inductive ResultData where
  | none
  | status (w : StatusWord)
  | unit (u : OutUnit)
  deriving DecidableEq, Repr

/-- The result record of a host operation (43_host_ops.md R220). -/
structure OpResult where
  accepted : Bool
  events : List Event
  data : ResultData
  deriving DecidableEq, Repr

/-- What the outside presents to the core. -/
inductive Input where
  /-- a host command word (30_encoding.md R89) -/
  | command (w : HostWord)
  /-- the platform's reset input (70_reset_and_hazards.md R290) -/
  | reset
  /-- one sample given to `sample_step` alone (40_extractor.md R129), the form of the single-step vectors of
  95_test_vectors.md; the host has no such operation (log 5) -/
  | sample (v : Bool)
  deriving DecidableEq, Repr

/-- The state record (10_state.md R20), with three fields of the model's own. -/
structure State where
  /-- model: the parameters, which never change (log 1) -/
  params : Params
  /-- model: what the host and the platform present next, oldest first (log 3) -/
  input : List Input
  /-- model: the result record of the latest operation (log 4) -/
  result : OpResult
  /-- 10_state.md R21 -/
  sessionOpen : Bool
  /-- 10_state.md R33 -/
  cfg : Cfg
  /-- 10_state.md R34 -/
  outValid : Bool
  /-- 10_state.md R34 -/
  outUnit : OutUnit
  /-- 10_state.md R35 -/
  errLength : Bool
  /-- 10_state.md R35 -/
  errFraming : Bool
  /-- 10_state.md R35 -/
  errIntegrity : Bool
  /-- 10_state.md R22 -/
  sampleIndex : Nat
  /-- 10_state.md R23 -/
  prevSample : Bool
  /-- 10_state.md R24 -/
  lastEdgeIndex : Int
  /-- 10_state.md R26 -/
  fstate : FState
  /-- 10_state.md R27 -/
  nextBit : Nat
  /-- 10_state.md R28 -/
  invert : Bool
  /-- 10_state.md R29 -/
  bitsReceived : Nat
  /-- 10_state.md R30 -/
  shift : Byte
  /-- 10_state.md R31 -/
  length : Nat
  /-- 10_state.md R32 -/
  payload : List Byte
  deriving DecidableEq, Repr

/-- Why the machine stops with a fault. Each is safe: no hardware behaviour is claimed after it. -/
inductive Fault where
  /-- Raised by a sample step whose key is reserved (30_encoding.md R95, 93_implementation_defined.md I1).
  Safe: the spec defines no hardware behaviour, and no reachable state produces such a key. -/
  | unreachableFramingState
  /-- Raised by `emit` with a unit pending (43_host_ops.md R226, 93_implementation_defined.md I6). Safe: PUSH
  is refused while a unit is pending. -/
  | outputOverrun
  /-- Raised at the end of a sample step in which a counter exceeds `2^INDEX_WIDTH - 1`, in a model of a
  finite-width build only (00_scope.md R16, 93_implementation_defined.md I7). Safe: such a run is outside
  the reference semantics. -/
  | indexOverflow
  /-- Raised by completion in test mode when the payload is not two bytes (41_packet.md R166, log 15). Safe:
  41_packet.md R163 makes it unreachable. -/
  | malformedTestFrame
  deriving DecidableEq, Repr

/-- Why the machine gives no meaning. Each is safe: nothing is run. -/
inductive Refusal where
  /-- Raised by an arm of `exec` whose instruction has no meaning yet. Safe. -/
  | notModelled (mnemonic : String)
  /-- Raised by a step or a boot with parameters that violate 00_scope.md R17
  (93_implementation_defined.md I8). Safe: the spec has a model refuse them. -/
  | invalidConfiguration
  /-- Raised by the loader and by the runner of a host program that holds OP 111 (43_host_ops.md R229,
  93_implementation_defined.md I2). Safe: the spec has a model refuse the program. -/
  | reservedOperation
  /-- Raised by the step-key dispatcher on a host operation, which no step key decodes to (log 21). Safe. -/
  | notAStepRow
  deriving DecidableEq, Repr

/-- The result record that stands before the first operation. DESIGN CHOICE (log 4). Unsafe for a claim that
reads it: the spec gives no result before an operation. -/
def OpResult.initial : OpResult := ⟨false, [], .none⟩

/-- Hardware reset at parameters `c` (10_state.md R42 and R43, 70_reset_and_hazards.md R290). -/
def State.resetWith (c : Params) : State where
  params := c
  input := []
  result := OpResult.initial
  sessionOpen := false
  cfg := ⟨false, false, false⟩
  outValid := false
  outUnit := OutUnit.empty
  errLength := false
  errFraming := false
  errIntegrity := false
  sampleIndex := 0
  prevSample := c.initPrevSample
  lastEdgeIndex := c.initLastEdge
  fstate := .idle
  nextBit := 0
  invert := false
  bitsReceived := 0
  shift := 0
  length := 0
  payload := []

/-- The machine right after hardware reset, at the default parameters (log 2). -/
def State.reset : State := State.resetWith Config.default

end Sys2Proof.Machine
end

