-- ==== Sys2Proof/Machine/Operands.lean ====
section
/-! DEFINITION. Operand forms: the CFG byte, the input byte, the per-sample signals and the step key, the
effective bit, the decoded length, and the output units. -/

namespace Sys2Proof.Machine

open Sys2Proof.Config

/-! ## Bytes -/

/-- The configuration OPEN latches from its argument: bits 2:0, bits 7:3 ignored (30_encoding.md R83,
R86). -/
def cfgOfByte (b : Byte) : Cfg := ⟨b.getLsbD 0, b.getLsbD 1, b.getLsbD 2⟩

/-- The eight samples of an input byte, the earliest first: `s_j = b[7 - j]` (30_encoding.md R81, R82). -/
def samplesOfByte (b : Byte) : List Bool :=
  [b.getLsbD 7, b.getLsbD 6, b.getLsbD 5, b.getLsbD 4, b.getLsbD 3, b.getLsbD 2, b.getLsbD 1, b.getLsbD 0]

/-- `(shift << 1) OR b` in 8 bits, most significant bit first (20_memory.md R63, 41_packet.md R161,
42_character.md R195). -/
def shiftIn (r : Byte) (b : Bool) : Byte := (r <<< 1) ||| (BitVec.ofBool b).setWidth 8

/-! ## The bit patterns of the 2-bit and 3-bit codes -/

/-- The code of a framing state (10_state.md R26). -/
def FState.code : FState → BitVec 2
  | .idle => 0b00#2
  | .preamble => 0b01#2
  | .receive => 0b10#2
  | .code11 => 0b11#2

/-- The framing state of a code. -/
def FState.ofCode (s1 s0 : Bool) : FState :=
  match s1, s0 with
  | false, false => .idle
  | false, true => .preamble
  | true, false => .receive
  | true, true => .code11

/-- The code of a unit kind (30_encoding.md R106). -/
def UnitKind.code : UnitKind → BitVec 2
  | .none => 0b00#2
  | .packet => 0b01#2
  | .char => 0b10#2
  | .testLine => 0b11#2

/-- The code of an event (60_exceptions.md R251). -/
def EventCode.code : EventCode → BitVec 3
  | .none => 0#3
  | .timingMismatch => 1#3
  | .lengthReject => 2#3
  | .framingError => 3#3
  | .integrityFail => 4#3
  | .sessionEnd => 5#3

/-! ## Window match (40_extractor.md R127) -/

/-- `dev`, the scaled deviation of the interval `Δ` from `k` bit periods. -/
def windowDev (c : Params) (k : Nat) (delta : Int) : Nat :=
  ((c.tolDen : Int) * (delta - (k : Int) * (c.bitPeriod : Int))).natAbs

/-- `lim`, the scaled permitted deviation. -/
def windowLim (c : Params) (k : Nat) : Nat :=
  match c.windowForm with
  | .absolute => c.tolNum * c.bitPeriod
  | .relative => c.tolNum * k * c.bitPeriod

/-- `match(k, Δ)`. -/
def windowMatch (c : Params) (k : Nat) (delta : Int) : Bool :=
  match c.windowBounds with
  | .opened => decide (windowDev c k delta < windowLim c k)
  | .closed => decide (windowDev c k delta ≤ windowLim c k)

/-! ## Which parameters a model accepts (00_scope.md R17) -/

/-- The largest interval not past `4 × P` that the upper bound of the 1× window admits. -/
def lastOf1xWindow (c : Params) : Nat :=
  min (4 * c.bitPeriod)
    (c.bitPeriod + match c.windowBounds with
      | .opened => (windowLim c 1 - 1) / c.tolDen
      | .closed => windowLim c 1 / c.tolDen)

/-- Whether the 1× and the 4× windows are disjoint, asked at the one interval where they would meet
(log 13). -/
def windowsDisjoint (c : Params) : Bool :=
  !(windowMatch c 1 (lastOf1xWindow c) && windowMatch c 4 (lastOf1xWindow c))

/-- The constraints of 00_scope.md R17, and the ranges R7, R15 and R16 give their parameters (log 12). -/
def paramsValid (c : Params) : Bool :=
  decide (1 ≤ c.bitPeriod) && decide (1 ≤ c.firstOffset) && decide (1 ≤ c.maxLen)
    && decide (c.maxLen ≤ 256) && decide (1 ≤ c.tolDen) && windowsDisjoint c
    && decide (c.initLastEdge ≤ 0) && decide (c.indexWidth ≠ some 0)

/-! ## The signals of one sample (40_extractor.md R121 to R129) -/

/-- `e`: the sample differs from the previous one (40_extractor.md R122). -/
def edgeOf (v : Bool) (s : State) : Bool := v != s.prevSample

/-- `Δ`: samples since the last edge (40_extractor.md R124). -/
def intervalOf (s : State) : Int := (s.sampleIndex : Int) - s.lastEdgeIndex

/-- `due`: the sample is the scheduled bit-sample instant (40_extractor.md R128). -/
def dueOf (s : State) : Bool := s.fstate == .receive && s.sampleIndex == s.nextBit

/-- `L`: a due sample would be the stop bit (30_encoding.md R93). -/
def stopOf (s : State) : Bool := s.cfg.mode && s.bitsReceived == dataBits

/-- `w1` and `w4` (40_extractor.md R127). -/
def windowOf (k : Nat) (v : Bool) (s : State) : Bool := edgeOf v s && windowMatch s.params k (intervalOf s)

/-- The step key of sample `v` (40_extractor.md R129, 30_encoding.md R93). -/
def assembleKey (v : Bool) (s : State) : StepKey :=
  keyWord s.cfg.mode s.fstate.code (edgeOf v s) v (dueOf s) (stopOf s) (windowOf 1 v s) (windowOf 4 v s)

/-! ## Pieces of P_RX_BIT -/

/-- `b = s XOR invert` (41_packet.md R160). -/
def effectiveBit (v : Bool) (s : State) : Bool := v ^^ s.invert

/-- `L` of the length byte `v`: 256 for 0 (41_packet.md R162). -/
def decodedLength (v : Byte) : Nat := if v = 0 then 256 else v.toNat

/-- Whether the decoded length `l` is rejected (41_packet.md R163). -/
def lengthRejected (l : Nat) (s : State) : Bool :=
  decide (s.params.maxLen < l) || (s.cfg.test && decide (l ≠ testLen))

/-- The value latched into `invert` at the sync edge (41_packet.md R155, 00_scope.md R14). -/
def latchedPolarity (v : Bool) (s : State) : Bool :=
  match s.params.polarityLatch with
  | .asSample => v
  | .complement => !v

/-! ## Output units (30_encoding.md R103 to R105) -/

/-- PACKET: the payload bytes in reception order (30_encoding.md R103). -/
def packetUnit (bytes : List Byte) : OutUnit := ⟨.packet, bytes.length, bytes⟩

/-- The low seven bits of a byte. -/
def low7 (b : Byte) : Byte := b &&& 0x7F#8

/-- CHAR: one byte, masked to seven bits (30_encoding.md R104). -/
def charUnit (b : Byte) : OutUnit := ⟨.char, 1, [low7 b]⟩

/-- The ASCII digit of `d` (30_encoding.md R105). -/
def digitByte (d : Nat) : Byte := BitVec.ofNat 8 (0x30 + d)

/-- The decimal digits of `n < 1000`, most significant first, without leading zeros (30_encoding.md
R105). -/
def decimalDigits (n : Nat) : List Byte :=
  if n < 10 then [digitByte n]
  else if n < 100 then [digitByte (n / 10), digitByte (n % 10)]
  else [digitByte (n / 100), digitByte (n / 10 % 10), digitByte (n % 10)]

/-- The bytes of a test line: the digits and one line feed (30_encoding.md R105). PRESUMED (log 17): the
digit codes and the terminator are marked as general knowledge in the spec. -/
def testLineBytes (id : Byte) : List Byte := decimalDigits id.toNat ++ [0x0A#8]

/-- TEST_LINE (30_encoding.md R105). -/
def testLineUnit (id : Byte) : OutUnit := ⟨.testLine, (testLineBytes id).length, testLineBytes id⟩

end Sys2Proof.Machine
end

