-- ==== Sys2Proof/Machine/Flags.lean ====
section
/-! DEFINITION. The sticky event flags and the STATUS word. -/

namespace Sys2Proof.Machine

/-- `report`: the event's sticky flag is set, whatever its old value, and the event joins the result of the
operation in progress (60_exceptions.md R251, R263; 00_scope.md R19). SESSION_END has no flag. -/
def report (ev : Event) (s : State) : State :=
  { s with
    errLength := s.errLength || ev.code == .lengthReject
    errFraming := s.errFraming || ev.code == .framingError
    errIntegrity := s.errIntegrity || ev.code == .integrityFail
    result := { s.result with events := s.result.events ++ [ev] } }

/-- All three sticky flags cleared, by OPEN and CLRERR (60_exceptions.md R263). -/
def clearErrors (s : State) : State :=
  { s with errLength := false, errFraming := false, errIntegrity := false }

/-- `in_ready`: a PUSH would be accepted (43_host_ops.md R230). -/
def inReady (s : State) : Bool := s.sessionOpen && !s.outValid

/-- The STATUS word (30_encoding.md R87), most significant field first. -/
def statusWord (s : State) : StatusWord :=
  0#5 ++ BitVec.ofBool s.cfg.debug ++ BitVec.ofBool s.cfg.test ++ BitVec.ofBool s.cfg.mode
    ++ BitVec.ofBool (inReady s) ++ BitVec.ofBool s.errIntegrity ++ BitVec.ofBool s.errFraming
    ++ BitVec.ofBool s.errLength ++ BitVec.ofBool s.outValid ++ s.fstate.code
    ++ BitVec.ofBool s.sessionOpen

end Sys2Proof.Machine
end

