-- ==== Sys2Proof/Machine/Ops.lean ====
section
/-! DEFINITION. The shared operations over the state: sequencing, the output register, clearing a frame,
taking an event, the extractor update, the session-open values, hardware reset. -/

namespace Sys2Proof.Machine

/-- The outcome of a meaning. -/
abbrev Result := Host.Outcome State Fault Refusal

/-- `f` after `r`, where `r` answers a next state; a fault or a refusal stays. -/
def andThen (r : Result) (f : State → Result) : Result :=
  match r with
  | .next s => f s
  | .fault x => .fault x
  | .refused x => .refused x

/-- `emit` (43_host_ops.md R226); with a unit pending it faults. -/
def emit (u : OutUnit) (s : State) : Result :=
  if s.outValid then .fault .outputOverrun else .next { s with outUnit := u, outValid := true }

/-- `frame_clear()` of Packet mode (41_packet.md R168). -/
def frameClear (s : State) : State :=
  { s with bitsReceived := 0, shift := 0, length := 0, payload := [] }

/-- The clearing of Character mode: `bits_received` and `shift` only (42_character.md R192, R196, R197;
log 14). -/
def characterClear (s : State) : State := { s with bitsReceived := 0, shift := 0 }

/-- `goto S` (00_scope.md R19). -/
def goState (f : FState) (s : State) : State := { s with fstate := f }

/-- A Packet frame ends: cleared, back to IDLE (41_packet.md R168). -/
def endPacketFrame (s : State) : State := goState .idle (frameClear s)

/-- A Character frame ends: cleared, back to IDLE (42_character.md R196, R197). -/
def endCharacterFrame (s : State) : State := goState .idle (characterClear s)

/-- Taking an event, what the spec gives in place of a trap entry (60_exceptions.md R257): the record joins
the events of the operation and its sticky flag is set, then the recovery `recover` of the detecting rule
runs, and nothing else: no state is saved and there is no return operation (R258). -/
def takeEvent (ev : Event) (recover : State → State) (s : State) : State := recover (report ev s)

/-- `next_bit <- next_bit + P` (41_packet.md R169, 42_character.md R195). -/
def advanceSchedule (s : State) : State := { s with nextBit := s.nextBit + s.params.bitPeriod }

/-- `next_bit <- i + FIRST_OFFSET` (41_packet.md R155, 42_character.md R192). -/
def scheduleFirst (s : State) : State := { s with nextBit := s.sampleIndex + s.params.firstOffset }

/-- The extractor update (40_extractor.md R125). -/
def extractorUpdate (v e : Bool) (s : State) : State :=
  { s with
    prevSample := v
    lastEdgeIndex := if e then (s.sampleIndex : Int) else s.lastEdgeIndex
    sampleIndex := s.sampleIndex + 1 }

/-- Whether every counter is within INDEX_WIDTH (00_scope.md R16); always so in the reference semantics. -/
def indexFits (s : State) : Bool :=
  match s.params.indexWidth with
  | none => true
  | some w =>
    decide (s.sampleIndex < 2 ^ w) && decide (s.nextBit < 2 ^ w) && decide (s.lastEdgeIndex < (2 ^ w : Nat))

/-- The end of a sample step: the extractor update, then the check of a finite-width build (log 11). -/
def finishSample (v e : Bool) (s : State) : Result :=
  if indexFits (extractorUpdate v e s) then .next (extractorUpdate v e s) else .fault .indexOverflow

/-- The session-open values of the session part (10_state.md R43). -/
def openSessionPart (s : State) : State :=
  { s with
    sampleIndex := 0
    prevSample := s.params.initPrevSample
    lastEdgeIndex := s.params.initLastEdge
    fstate := .idle
    nextBit := 0
    invert := false
    bitsReceived := 0
    shift := 0
    length := 0
    payload := [] }

/-- A host operation returns its result record (43_host_ops.md R220). -/
def returnResult (accepted : Bool) (events : List Event) (data : ResultData) (s : State) : State :=
  { s with result := ⟨accepted, events, data⟩ }

/-- Hardware reset while the machine runs (70_reset_and_hazards.md R290): every field at its reset value, no
SESSION_END, the pending unit discarded; the parameters and what the host presents next stay (log 6). -/
def hardwareReset (s : State) : State := { State.resetWith s.params with input := s.input }

end Sys2Proof.Machine
end

