-- ==== Sys2Proof/Machine/Character.lean ====
section
/-! DEFINITION. The transition rules of Character mode (spec/42_character.md), each followed by the extractor
update. -/

namespace Sys2Proof.Machine

/-- C_IDLE_QUIET (42_character.md R191). -/
def execCIdleQuiet (v : Bool) (s : State) : Result := finishSample v false s

/-- C_IDLE_RISE (42_character.md R192); its row fixes the sample at 1. -/
def execCIdleRise (s : State) : Result :=
  finishSample true true (goState .receive (characterClear (scheduleFirst s)))

/-- C_IDLE_FALL (42_character.md R193); its row fixes the sample at 0. -/
def execCIdleFall (s : State) : Result := finishSample false true s

/-- C_RX_WAIT (42_character.md R194). -/
def execCRxWait (e v : Bool) (s : State) : Result := finishSample v e s

/-- C_RX_DATA (42_character.md R195): the data bit is the raw sample. -/
def execCRxData (e v : Bool) (s : State) : Result :=
  finishSample v e
    (advanceSchedule { s with shift := shiftIn s.shift v, bitsReceived := s.bitsReceived + 1 })

/-- C_RX_STOP_OK (42_character.md R196); its row fixes the sample at 0. -/
def execCRxStopOk (e : Bool) (s : State) : Result :=
  andThen (emit (charUnit s.shift) s) fun t => finishSample false e (endCharacterFrame (advanceSchedule t))

/-- C_RX_STOP_ERR (42_character.md R197); its row fixes the sample at 1. -/
def execCRxStopErr (e : Bool) (s : State) : Result :=
  finishSample true e
    (takeEvent ⟨.framingError, .data (low7 s.shift)⟩ (fun t => endCharacterFrame (advanceSchedule t)) s)

end Sys2Proof.Machine
end

