-- ==== Sys2Proof/Machine/Packet.lean ====
section
/-! DEFINITION. The transition rules of Packet mode (spec/41_packet.md). A meaning takes the sample `v` and,
where its row leaves it open, the edge `e` from the key, and ends with the extractor update. -/

namespace Sys2Proof.Machine

open Sys2Proof.Config

/-- P_IDLE_QUIET (41_packet.md R151). -/
def execPIdleQuiet (v : Bool) (s : State) : Result := finishSample v false s

/-- P_IDLE_EDGE_SYNC1 (41_packet.md R152). -/
def execPIdleEdgeSync1 (v : Bool) (s : State) : Result := finishSample v true (goState .preamble s)

/-- P_IDLE_EDGE_NOISE (41_packet.md R153). -/
def execPIdleEdgeNoise (v : Bool) (s : State) : Result := finishSample v true s

/-- P_PRE_QUIET (41_packet.md R154). -/
def execPPreQuiet (v : Bool) (s : State) : Result := finishSample v false s

/-- P_PRE_EDGE_START (41_packet.md R155). -/
def execPPreEdgeStart (v : Bool) (s : State) : Result :=
  finishSample v true
    (goState .receive (frameClear (scheduleFirst { s with invert := latchedPolarity v s })))

/-- P_PRE_EDGE_EXTEND (41_packet.md R156). -/
def execPPreEdgeExtend (v : Bool) (s : State) : Result := finishSample v true s

/-- P_PRE_EDGE_LOST (41_packet.md R157). -/
def execPPreEdgeLost (v : Bool) (s : State) : Result := finishSample v true (goState .idle s)

/-- P_RX_WAIT (41_packet.md R158). -/
def execPRxWait (e v : Bool) (s : State) : Result := finishSample v e s

/-- The accepted bit enters the accumulator (41_packet.md R159, first two lines). -/
def acceptBit (b : Bool) (s : State) : State :=
  { s with shift := shiftIn s.shift b, bitsReceived := s.bitsReceived + 1 }

/-- The length phase, after the bit is accepted: on the 8th bit the length is decoded and rejected or
stored (41_packet.md R161 to R163). -/
def lengthPhase (s : State) : State :=
  if s.bitsReceived = lenBits then
    if lengthRejected (decodedLength s.shift) s then
      takeEvent ⟨.lengthReject, .length (decodedLength s.shift)⟩ endPacketFrame s
    else { s with length := decodedLength s.shift, shift := 0 }
  else s

/-- `complete()` (41_packet.md R166, R167), before the framer returns to IDLE. -/
def completeFrame (s : State) : Result :=
  if s.cfg.test then
    match s.payload with
    | [id, check] =>
      if check = id ^^^ 0xFF#8 then emit (testLineUnit id) s
      else .next (report ⟨.integrityFail, .pair id check⟩ s)
    | _ => .fault .malformedTestFrame
  else emit (packetUnit s.payload) s

/-- A completed byte joins the payload (41_packet.md R164). -/
def appendByte (s : State) : State := { s with payload := s.payload ++ [s.shift], shift := 0 }

/-- The payload phase, after the bit is accepted (41_packet.md R164, R165). -/
def payloadPhase (s : State) : Result :=
  if (s.bitsReceived - lenBits) % 8 = 0 then
    if (appendByte s).payload.length = s.length then
      andThen (completeFrame (appendByte s)) fun t => .next (endPacketFrame t)
    else .next (appendByte s)
  else .next s

/-- The length or the payload phase of an accepted bit (41_packet.md R159). -/
def framePhase (s : State) : Result :=
  if s.bitsReceived ≤ lenBits then .next (lengthPhase s) else payloadPhase s

/-- P_RX_BIT (41_packet.md R159 to R169). -/
def execPRxBit (e v : Bool) (s : State) : Result :=
  andThen (framePhase (acceptBit (effectiveBit v s) s)) fun t => finishSample v e (advanceSchedule t)

end Sys2Proof.Machine
end

