-- ==== Sys2Proof/Machine/ReservedKeys.lean ====
section
/-! DEFINITION. The two reserved step-key patterns (spec/30_encoding.md R95). -/

namespace Sys2Proof.Machine

/-- STEPKEY_RESERVED, `S = 11`: the spec defines no hardware behaviour and has a model fault
(30_encoding.md R95, 93_implementation_defined.md I1). -/
def execStepkeyReserved (_s : State) : Result := .fault .unreachableFramingState

/-- STEPKEY_RESERVED_CHAR_PRE, `M = 1` with `S = 01` (30_encoding.md R95, 93_implementation_defined.md
I1). -/
def execStepkeyReservedCharPre (_s : State) : Result := .fault .unreachableFramingState

end Sys2Proof.Machine
end

