-- ==== Sys2Proof/Machine/SampleStep.lean ====
section
/-! DEFINITION. `sample_step` (spec/40_extractor.md R129) and UNPACK (R120). -/

namespace Sys2Proof.Machine

/-- `perform(rule)` and the extractor update, for the row a step key decodes to. It has the same meanings
as `exec`; PUSH needs it because `exec` comes after PUSH. A host operation is no row (log 21). -/
def performRow (i : Instr) (s : State) : Result :=
  match i with
  | .pIdleQuiet v _ _ _ _ => execPIdleQuiet v s
  | .pIdleEdgeSync1 v _ _ _ => execPIdleEdgeSync1 v s
  | .pIdleEdgeNoise v _ _ _ => execPIdleEdgeNoise v s
  | .pPreQuiet v _ _ _ _ => execPPreQuiet v s
  | .pPreEdgeStart v _ _ _ => execPPreEdgeStart v s
  | .pPreEdgeExtend v _ _ => execPPreEdgeExtend v s
  | .pPreEdgeLost v _ _ => execPPreEdgeLost v s
  | .pRxWait e v _ _ _ => execPRxWait e v s
  | .pRxBit e v _ _ _ => execPRxBit e v s
  | .cIdleQuiet v _ _ _ _ => execCIdleQuiet v s
  | .cIdleRise _ _ _ _ => execCIdleRise s
  | .cIdleFall _ _ _ _ => execCIdleFall s
  | .cRxWait e v _ _ _ => execCRxWait e v s
  | .cRxData e v _ _ => execCRxData e v s
  | .cRxStopOk e _ _ => execCRxStopOk e s
  | .cRxStopErr e _ _ => execCRxStopErr e s
  | .stepkeyReserved _ _ _ _ _ _ _ => execStepkeyReserved s
  | .stepkeyReservedCharPre _ _ _ _ _ _ => execStepkeyReservedCharPre s
  | .nop _ => .refused .notAStepRow
  | .openSession _ => .refused .notAStepRow
  | .closeSession _ => .refused .notAStepRow
  | .push _ => .refused .notAStepRow
  | .pop _ => .refused .notAStepRow
  | .status _ => .refused .notAStepRow
  | .clrerr _ => .refused .notAStepRow
  | .reserved111 _ => .refused .notAStepRow

/-- `sample_step(s)` (40_extractor.md R129): the key is assembled from the state at the start of the step,
and the one row it selects is performed. -/
def sampleStep (v : Bool) (s : State) : Result := performRow (decodeStepKey (assembleKey v s)) s

/-- The sample steps of a sequence of samples, in order (40_extractor.md R120). -/
def runSamples (vs : List Bool) (s : State) : Result :=
  match vs with
  | [] => .next s
  | v :: rest => andThen (sampleStep v s) (runSamples rest)

/-- UNPACK: the eight sample steps of a byte, the earliest sample first (40_extractor.md R120). -/
def unpack (b : Byte) (s : State) : Result := runSamples (samplesOfByte b) s

end Sys2Proof.Machine
end

