-- ==== Sys2Proof/Machine/HostOps.lean ====
section
/-! DEFINITION. The host operations (spec/43_host_ops.md). Each leaves its result record in `result`. -/

namespace Sys2Proof.Machine

/-- NOP (43_host_ops.md R221). -/
def execNop (s : State) : Result := .next (returnResult true [] .none s)

/-- OPEN (43_host_ops.md R222). -/
def execOpen (cfg : Byte) (s : State) : Result :=
  .next (returnResult true [] .none
    (clearErrors (openSessionPart { s with cfg := cfgOfByte cfg, sessionOpen := true })))

/-- CLOSE (43_host_ops.md R223). -/
def execClose (s : State) : Result :=
  if s.sessionOpen then
    .next (returnResult true [⟨.sessionEnd, .none⟩] .none { s with sessionOpen := false })
  else .next (returnResult false [] .none s)

/-- PUSH (43_host_ops.md R224): the eight sample steps add their events to a result that starts accepted
and empty. -/
def execPush (b : Byte) (s : State) : Result :=
  if inReady s then unpack b (returnResult true [] .none s)
  else .next (returnResult false [] .none s)

/-- POP (43_host_ops.md R225). -/
def execPop (s : State) : Result :=
  if s.outValid then
    .next (returnResult true [] (.unit s.outUnit) { s with outValid := false, outUnit := OutUnit.empty })
  else .next (returnResult true [] (.unit OutUnit.empty) s)

/-- STATUS (43_host_ops.md R227). -/
def execStatus (s : State) : Result := .next (returnResult true [] (.status (statusWord s)) s)

/-- CLRERR (43_host_ops.md R228). -/
def execClrerr (s : State) : Result := .next (returnResult true [] .none (clearErrors s))

/-- The reserved OP 111 (43_host_ops.md R229): accepted 0 and no effect, as the hardware answers; a program
that holds it is refused when it is loaded (log 9). -/
def execReserved111 (s : State) : Result := .next (returnResult false [] .none s)

end Sys2Proof.Machine
end

