-- ==== Sys2Proof/Machine/Dispatch.lean ====
section
/-! DEFINITION. One arm per instruction. -/

namespace Sys2Proof.Machine

def exec (i : Instr) (s : State) : Host.Outcome State Fault Refusal :=
  match i with
  -- host operations (spec/43_host_ops.md)
  | .nop _ => Sys2Proof.Machine.execNop s
  | .openSession cfg => Sys2Proof.Machine.execOpen cfg s
  | .closeSession _ => Sys2Proof.Machine.execClose s
  | .push b => Sys2Proof.Machine.execPush b s
  | .pop _ => Sys2Proof.Machine.execPop s
  | .status _ => Sys2Proof.Machine.execStatus s
  | .clrerr _ => Sys2Proof.Machine.execClrerr s
  | .reserved111 _ => Sys2Proof.Machine.execReserved111 s
  -- Packet-mode transition rules (spec/41_packet.md)
  | .pIdleQuiet v _ _ _ _ => Sys2Proof.Machine.execPIdleQuiet v s
  | .pIdleEdgeSync1 v _ _ _ => Sys2Proof.Machine.execPIdleEdgeSync1 v s
  | .pIdleEdgeNoise v _ _ _ => Sys2Proof.Machine.execPIdleEdgeNoise v s
  | .pPreQuiet v _ _ _ _ => Sys2Proof.Machine.execPPreQuiet v s
  | .pPreEdgeStart v _ _ _ => Sys2Proof.Machine.execPPreEdgeStart v s
  | .pPreEdgeExtend v _ _ => Sys2Proof.Machine.execPPreEdgeExtend v s
  | .pPreEdgeLost v _ _ => Sys2Proof.Machine.execPPreEdgeLost v s
  | .pRxWait e v _ _ _ => Sys2Proof.Machine.execPRxWait e v s
  | .pRxBit e v _ _ _ => Sys2Proof.Machine.execPRxBit e v s
  -- Character-mode transition rules (spec/42_character.md)
  | .cIdleQuiet v _ _ _ _ => Sys2Proof.Machine.execCIdleQuiet v s
  | .cIdleRise _ _ _ _ => Sys2Proof.Machine.execCIdleRise s
  | .cIdleFall _ _ _ _ => Sys2Proof.Machine.execCIdleFall s
  | .cRxWait e v _ _ _ => Sys2Proof.Machine.execCRxWait e v s
  | .cRxData e v _ _ => Sys2Proof.Machine.execCRxData e v s
  | .cRxStopOk e _ _ => Sys2Proof.Machine.execCRxStopOk e s
  | .cRxStopErr e _ _ => Sys2Proof.Machine.execCRxStopErr e s
  -- reserved step keys (spec/30_encoding.md R95)
  | .stepkeyReserved _ _ _ _ _ _ _ => Sys2Proof.Machine.execStepkeyReserved s
  | .stepkeyReservedCharPre _ _ _ _ _ _ => Sys2Proof.Machine.execStepkeyReservedCharPre s

end Sys2Proof.Machine
end

