-- ==== Sys2Proof/Machine/Fetch.lean ====
section
/-! DEFINITION. What a step does next: the oldest input is taken, and a sample's key is assembled and
decoded. -/

namespace Sys2Proof.Machine

/-- What the next step does. -/
inductive Fetched where
  /-- nothing is presented: the core holds its state -/
  | hold
  /-- the platform resets the core -/
  | reset (s : State)
  /-- an instruction runs in the state with its input taken -/
  | run (i : Instr) (s : State)
  deriving DecidableEq, Repr

/-- The oldest input taken from `input` (log 3). A host command word is decoded by 30_encoding.md R90. A
single sample is given to the row its step key selects (40_extractor.md R129), in a result record that
starts as PUSH's does (log 5). -/
def fetch (s : State) : Fetched :=
  match s.input with
  | [] => .hold
  | .command w :: rest => .run (decodeHostCmd w) { s with input := rest }
  | .reset :: rest => .reset (hardwareReset { s with input := rest })
  | .sample v :: rest =>
    .run (decodeStepKey (assembleKey v s)) (returnResult true [] .none { s with input := rest })

/-- The interval that makes the window bits of a key with an edge: within the window the key asks for, else
past both windows. -/
def intervalForKey (c : Config.Params) (pre w1 w4 : Bool) : Int :=
  if pre && w4 then 4 * (c.bitPeriod : Int)
  else if w1 then (c.bitPeriod : Int)
  else if w4 then 4 * (c.bitPeriod : Int)
  else 4 * (c.bitPeriod : Int) + 4 * (c.bitPeriod : Int) * (c.tolNum : Int) + 1

/-- `s` with one sample presented and the fields the key is assembled from set so that the key selects the
row of `k` (log 8). -/
def presentKey (k : StepKey) (s : State) : State :=
  { s with
    input := .sample (k.getLsbD 4) :: s.input
    cfg := { s.cfg with mode := k.getLsbD 8 }
    fstate := FState.ofCode (k.getLsbD 7) (k.getLsbD 6)
    prevSample := k.getLsbD 4 ^^ k.getLsbD 5
    nextBit := if k.getLsbD 3 then s.sampleIndex else s.sampleIndex + 1
    bitsReceived :=
      if k.getLsbD 2 then Config.dataBits
      else if s.bitsReceived = Config.dataBits then 0 else s.bitsReceived
    lastEdgeIndex :=
      if k.getLsbD 5 then
        (s.sampleIndex : Int)
          - intervalForKey s.params (!k.getLsbD 7 && k.getLsbD 6) (k.getLsbD 1) (k.getLsbD 0)
      else s.lastEdgeIndex }

/-- `s` with a word presented to the next step. -/
def presentWord (w : MachineWord) (s : State) : State :=
  match w with
  | .hostCmd h => { s with input := .command h :: s.input }
  | .stepKey k => presentKey k s

end Sys2Proof.Machine
end

