-- ==== Sys2Proof/Machine/Step.lean ====
section
/-! DEFINITION. One step of the machine, and the placing of an instruction for the next step. -/

namespace Sys2Proof.Machine

/-- One step: a configuration that violates 00_scope.md R17 is refused; else the next input is taken and
run. With nothing presented the core holds its state (60_exceptions.md R268). -/
def step (s : State) : Host.Outcome State Fault Refusal :=
  if paramsValid s.params then
    match fetch s with
    | .hold => .next s
    | .reset t => .next t
    | .run i t => exec i t
  else .refused .invalidConfiguration

/-- `s` with the word `w` of `nbits` bits presented so that the next step runs it (log 8); a number that is
no word of the format presents nothing. -/
def State.withFetchWord (s : State) (nbits w : Nat) : State :=
  match wordOfNat (formatOf nbits w) w with
  | .ok x => presentWord x s
  | .error _ => s

end Sys2Proof.Machine
end

