-- ==== Sys2Proof/Machine/Assembler.lean ====
section
/-! DEFINITION. The host program syntax (spec/30_encoding.md R108 to R110). -/

namespace Sys2Proof.Machine

/-- A line of a host program (30_encoding.md R108 to R110). -/
inductive AsmLine where
  | nop
  | openSession (cfg : Byte)
  | closeSession
  | push (b : Byte)
  | pop
  | status
  | clrerr
  /-- `STREAM`: runs of a level and a count -/
  | stream (runs : List (Bool × Nat))
  /-- `BYTES` -/
  | bytes (bs : List Byte)
  deriving DecidableEq, Repr

/-- Why the assembler refuses a line. -/
inductive AsmError where
  | unknownMnemonic
  | badOperand
  /-- the samples of a STREAM are not a multiple of 8 (30_encoding.md R109) -/
  | partialByte
  deriving DecidableEq, Repr

/-! ## Encoding of lines -/

/-- Eight samples, the earliest first, as one byte (30_encoding.md R81). -/
def byteOfSamples (a b c d e f g h : Bool) : Byte :=
  BitVec.ofBool a ++ BitVec.ofBool b ++ BitVec.ofBool c ++ BitVec.ofBool d ++ BitVec.ofBool e
    ++ BitVec.ofBool f ++ BitVec.ofBool g ++ BitVec.ofBool h

/-- A sample sequence packed 8 samples a byte; none where its length is no multiple of 8 (30_encoding.md
R109). -/
def packSamples : List Bool → Option (List Byte)
  | [] => some []
  | a :: b :: c :: d :: e :: f :: g :: h :: rest =>
    match packSamples rest with
    | some bs => some (byteOfSamples a b c d e f g h :: bs)
    | none => none
  | _ => none

/-- The samples of a STREAM's runs (30_encoding.md R109). -/
def samplesOfRuns (runs : List (Bool × Nat)) : List Bool :=
  runs.flatMap fun r => List.replicate r.2 r.1

/-- `PUSH b` then `POP` for each byte (30_encoding.md R109, R110). -/
def pushPop (bs : List Byte) : List HostWord :=
  bs.flatMap fun b => [hostWord 0b011#3 b, hostWord 0b100#3 0]

/-- The words of a line; ARG is 0 where the operation has no operand (30_encoding.md R91, R108). -/
def assembleLine : AsmLine → Except AsmError (List HostWord)
  | .nop => .ok [hostWord 0b000#3 0]
  | .openSession cfg => .ok [hostWord 0b001#3 cfg]
  | .closeSession => .ok [hostWord 0b010#3 0]
  | .push b => .ok [hostWord 0b011#3 b]
  | .pop => .ok [hostWord 0b100#3 0]
  | .status => .ok [hostWord 0b101#3 0]
  | .clrerr => .ok [hostWord 0b110#3 0]
  | .stream runs =>
    if runs.all (fun r => decide (1 ≤ r.2)) then
      match packSamples (samplesOfRuns runs) with
      | some bs => .ok (pushPop bs)
      | none => .error .partialByte
    else .error .badOperand
  | .bytes bs => .ok (pushPop bs)

/-- The words of a program. -/
def assemble : List AsmLine → Except AsmError (List HostWord)
  | [] => .ok []
  | l :: rest =>
    match assembleLine l, assemble rest with
    | .ok ws, .ok more => .ok (ws ++ more)
    | .error e, _ => .error e
    | _, .error e => .error e

/-! ## Text of lines (log 19) -/

/-- White space inside a line. -/
def isBlank (c : Char) : Bool := c == ' ' || c == '\t' || c == '\r'

/-- The text cut at every character `sep` holds for. -/
def splitAtAll (sep : Char → Bool) : List Char → List (List Char)
  | [] => [[]]
  | c :: rest =>
    match splitAtAll sep rest with
    | [] => [[c]]
    | w :: ws => if sep c then [] :: w :: ws else (c :: w) :: ws

/-- The pieces between blanks. -/
def wordsOf (cs : List Char) : List (List Char) := (splitAtAll isBlank cs).filter fun w => !w.isEmpty

/-- A text without its leading blanks. -/
def dropBlanks : List Char → List Char
  | [] => []
  | c :: rest => if isBlank c then dropBlanks rest else c :: rest

/-- The pieces between commas, each without blanks around it. -/
def commaList (cs : List Char) : List (List Char) :=
  (splitAtAll (fun c => c == ',') cs).map fun w => (dropBlanks (dropBlanks w).reverse).reverse

/-- The value of an upper-case digit. -/
def digitValue (c : Char) : Option Nat :=
  if '0' ≤ c && c ≤ '9' then some (c.toNat - '0'.toNat)
  else if 'A' ≤ c && c ≤ 'F' then some (c.toNat - 'A'.toNat + 10)
  else none

/-- The value of digits of a base, after `acc`. -/
def digitsValue (base acc : Nat) : List Char → Option Nat
  | [] => some acc
  | c :: rest =>
    match digitValue c with
    | some d => if d < base then digitsValue base (acc * base + d) rest else none
    | none => none

/-- A number with at least one digit: `0x` hexadecimal, `0b` binary, or decimal (30_encoding.md R108). -/
def numberOf : List Char → Option Nat
  | [] => none
  | ['0', 'X'] => none
  | ['0', 'B'] => none
  | '0' :: 'X' :: rest => digitsValue 16 0 rest
  | '0' :: 'B' :: rest => digitsValue 2 0 rest
  | cs => digitsValue 10 0 cs

/-- A byte literal, `0..255` (30_encoding.md R108). -/
def byteLiteral (cs : List Char) : Option Byte :=
  match numberOf cs with
  | some n => if n < 256 then some (BitVec.ofNat 8 n) else none
  | none => none

/-- The option names after the mode, added to `acc`. DESIGN CHOICE (log 19): 30_encoding.md R108 does not say whether
an option may be repeated, and a repeated one is accepted and adds nothing. -/
def cfgOptions (acc : Byte) : List (List Char) → Option Byte
  | [] => some acc
  | ['T', 'E', 'S', 'T'] :: rest => cfgOptions (acc ||| 0x02#8) rest
  | ['D', 'E', 'B', 'U', 'G'] :: rest => cfgOptions (acc ||| 0x04#8) rest
  | _ => none

/-- The operand of OPEN: a byte literal, or a comma list that names the mode and then the options
(30_encoding.md R108). -/
def cfgOperand (cs : List Char) : Option Byte :=
  match commaList cs with
  | ['P', 'A', 'C', 'K', 'E', 'T'] :: rest => cfgOptions 0x00#8 rest
  | ['C', 'H', 'A', 'R'] :: rest => cfgOptions 0x01#8 rest
  | [w] => byteLiteral w
  | _ => none

/-- A run `<level>*<count>` (30_encoding.md R109). DESIGN CHOICE (log 19): R109 does not say how a count is written, and
only decimal digits are read; a count in `0x` or `0b` form is refused. -/
def runOperand (cs : List Char) : Option (Bool × Nat) :=
  match cs with
  | '0' :: '*' :: n => (digitsValue 10 0 n).map fun k => (false, if n.isEmpty then 0 else k)
  | '1' :: '*' :: n => (digitsValue 10 0 n).map fun k => (true, if n.isEmpty then 0 else k)
  | _ => none

/-- A line with an operand that may be missing or wrong. -/
def operandLine {α : Type} (operand : Option α) (f : α → AsmLine) : Except AsmError (Option AsmLine) :=
  match operand with
  | some a => .ok (some (f a))
  | none => .error .badOperand

/-- A line of an operation without operand. -/
def plainLine (rest : List Char) (l : AsmLine) : Except AsmError (Option AsmLine) :=
  if (wordsOf rest).isEmpty then .ok (some l) else .error .badOperand

/-- The list of options as an option of the list. -/
def allSome {α : Type} : List (Option α) → Option (List α)
  | [] => some []
  | none :: _ => none
  | some a :: rest => (allSome rest).map (a :: ·)

/-- A non-empty list of operands. -/
def operandList {α : Type} (read : List Char → Option α) (ws : List (List Char)) : Option (List α) :=
  if ws.isEmpty then none else allSome (ws.map read)

/-- The text before a comment (30_encoding.md R108). -/
def stripComment (cs : List Char) : List Char := cs.takeWhile fun c => c != ';'

/-- The line a mnemonic and the text after it stand for. -/
def lineOf (mnemonic rest : List Char) : Except AsmError (Option AsmLine) :=
  if mnemonic = "NOP".toList then plainLine rest .nop
  else if mnemonic = "OPEN".toList then operandLine (cfgOperand rest) .openSession
  else if mnemonic = "CLOSE".toList then plainLine rest .closeSession
  else if mnemonic = "PUSH".toList then
    operandLine (match wordsOf rest with | [w] => byteLiteral w | _ => none) .push
  else if mnemonic = "POP".toList then plainLine rest .pop
  else if mnemonic = "STATUS".toList then plainLine rest .status
  else if mnemonic = "CLRERR".toList then plainLine rest .clrerr
  else if mnemonic = "STREAM".toList then operandLine (operandList runOperand (wordsOf rest)) .stream
  else if mnemonic = "BYTES".toList then operandLine (operandList byteLiteral (commaList rest)) .bytes
  else .error .unknownMnemonic

/-- One line of text; none for a line that is blank but for a comment (30_encoding.md R108, log 19). -/
def parseLine (cs : List Char) : Except AsmError (Option AsmLine) :=
  let text := dropBlanks ((stripComment cs).map Char.toUpper)
  let mnemonic := text.takeWhile fun c => !isBlank c
  if mnemonic.isEmpty then .ok none else lineOf mnemonic (text.drop mnemonic.length)

/-- The words of a program given as lines of text. -/
def assembleText : List (List Char) → Except AsmError (List HostWord)
  | [] => .ok []
  | cs :: rest =>
    match parseLine cs, assembleText rest with
    | .error e, _ => .error e
    | _, .error e => .error e
    | .ok none, .ok more => .ok more
    | .ok (some l), .ok more =>
      match assembleLine l with
      | .ok ws => .ok (ws ++ more)
      | .error e => .error e

end Sys2Proof.Machine
end

