-- ==== Sys2Proof/Machine/Line.lean ====
section
/-! DEFINITION. The line frames a sender makes (spec/30_encoding.md R97 to R101, R107). The core does not make
them; statements about decoding are about them. -/

namespace Sys2Proof.Machine

/-- A bit cell: the level held for one bit period (30_encoding.md R97). -/
def cell (p : Nat) (level : Bool) : List Bool := List.replicate p level

/-- The bits of a byte, most significant first (20_memory.md R63). -/
def bitsOfByte (b : Byte) : List Bool := samplesOfByte b

/-- The seven bits of a character, most significant first (30_encoding.md R101). -/
def bitsOfChar (c : BitVec 7) : List Bool :=
  [c.getLsbD 6, c.getLsbD 5, c.getLsbD 4, c.getLsbD 3, c.getLsbD 2, c.getLsbD 1, c.getLsbD 0]

/-- Bit cells in order, each level XORed with `inv` (30_encoding.md R97). -/
def cells (p : Nat) (inv : Bool) (bits : List Bool) : List Bool := bits.flatMap fun b => cell p (b ^^ inv)

/-- The character line frame: the start cell, which begins with the rising edge, the seven data cells at the
raw level, the stop cell at 0 (30_encoding.md R101). -/
def characterFrame (p : Nat) (c : BitVec 7) : List Bool :=
  cell p true ++ cells p false (bitsOfChar c) ++ cell p false

/-- The length byte of a payload of `l` bytes (30_encoding.md R98); 256 is encoded as 0. -/
def lengthByte (l : Nat) : Byte := BitVec.ofNat 8 l

/-- Levels held in turn, each for its number of samples, the line changing after each. -/
def heldLevels (level : Bool) : List Nat → List Bool
  | [] => []
  | g :: gs => List.replicate g level ++ heldLevels (!level) gs

/-- The level after `heldLevels`: the level the line takes at its last change. -/
def levelAfter (level : Bool) : List Nat → Bool
  | [] => level
  | _ :: gs => levelAfter (!level) gs

/-- The packet line frame (30_encoding.md R97): the line holds `lead` up to the lock edge, then the gaps before
each preamble edge and before the sync edge, which are `gaps` in order; from the sync edge one cell that is not
sampled, then the length byte and the payload as `bit XOR inv`. -/
def packetLine (p : Nat) (lead : Bool) (gaps : List Nat) (inv : Bool) (payload : List Byte) : List Bool :=
  heldLevels lead gaps ++ cell p (levelAfter lead gaps)
    ++ cells p inv ((lengthByte payload.length :: payload).flatMap bitsOfByte)

/-- The line frame of 95_test_vectors.md E2: the lock edge after one bit period of `lead`, one preamble edge, the
sync edge after four. -/
def packetFrame (p : Nat) (lead : Bool) (payload : List Byte) : List Bool :=
  packetLine p lead [p, p, 4 * p] (!lead) payload

end Sys2Proof.Machine
end

