-- ==== Sys2Proof/Machine/Program.lean ====
section
/-! DEFINITION. Boot, loading a host program, running it, and what is observable of it (spec/30_encoding.md
R111, spec/70_reset_and_hazards.md R292). -/

namespace Sys2Proof.Machine

/-- Boot (70_reset_and_hazards.md R292, steps 1 and 2): the parameters are checked, then hardware reset. -/
def boot (c : Config.Params) : Result :=
  if paramsValid c then .next (State.resetWith c) else .refused .invalidConfiguration

/-- Whether a model takes a host program: it holds no word of the reserved OP 111 (43_host_ops.md R229,
93_implementation_defined.md I2). -/
def programLegal (ws : List HostWord) : Bool := ws.all fun w => (decodeHostCmd w).wellFormed

/-- A host program placed before the core; one that is not legal is refused whole (43_host_ops.md R229). -/
def loadProgram (ws : List HostWord) (s : State) : Result :=
  if programLegal ws then .next { s with input := ws.map .command } else .refused .reservedOperation

/-- What a host sees of a program (30_encoding.md R111). -/
inductive Observation where
  /-- a non-NONE unit a POP returned -/
  | unit (u : OutUnit)
  /-- the events a PUSH returned -/
  | events (es : List Event)
  /-- the word a STATUS returned -/
  | status (w : StatusWord)
  deriving DecidableEq, Repr

/-- What instruction `i` with result record `r` adds to the observable result (30_encoding.md R111). -/
def observe (i : Instr) (r : OpResult) : List Observation :=
  match i, r.data with
  | .pop _, .unit u => if u.kind = .none then [] else [.unit u]
  | .push _, _ => [.events r.events]
  | .status _, .status w => [.status w]
  | _, _ => []

/-- The observations put before those of the rest of a run. -/
def prependObs (obs : List Observation) (r : Host.Outcome (State × List Observation) Fault Refusal) :
    Host.Outcome (State × List Observation) Fault Refusal :=
  match r with
  | .next (s, rest) => .next (s, obs ++ rest)
  | .fault x => .fault x
  | .refused x => .refused x

/-- The host presents each word in order and reads its result: the last state and the observable result, in
program order (30_encoding.md R111). -/
def runWords (ws : List HostWord) (s : State) : Host.Outcome (State × List Observation) Fault Refusal :=
  match ws with
  | [] => .next (s, [])
  | w :: rest =>
    match step { s with input := .command w :: s.input } with
    | .next t => prependObs (observe (decodeHostCmd w) t.result) (runWords rest t)
    | .fault x => .fault x
    | .refused x => .refused x

/-- A host program run from `s`. One that is not legal is refused before any of its words runs (43_host_ops.md R229,
93_implementation_defined.md I2; log 9). -/
def runProgram (ws : List HostWord) (s : State) : Host.Outcome (State × List Observation) Fault Refusal :=
  if programLegal ws then runWords ws s else .refused .reservedOperation

/-- The bytes the Sink writes, in the order the units are popped (43_host_ops.md R225). -/
def sinkBytes (obs : List Observation) : List Byte :=
  obs.flatMap fun o =>
    match o with
    | .unit u => u.bytes
    | _ => []

end Sys2Proof.Machine
end

