-- ==== Sys2Proof/Safety.lean ====
section
/-! DEFINITION. The terms claims are stated in: the invariants of reachable states (spec/10_state.md R41), the
states a host program runs from, and the comparisons of two runs. -/

namespace Sys2Proof.Machine

/-- The invariants of 10_state.md R41 on the session part. `testLength` and `characterUnused` are not in R41:
they are what the rules that write the fields also keep (41_packet.md R163; 42_character.md, which writes
neither field), and the step needs them. R41(g) says besides that no edge has yet occurred where
`lastEdgeIndex` is INIT_LAST_EDGE, which the state does not record. -/
structure SessionInv (s : State) : Prop where
  /-- `0b11` is never held (10_state.md R26) -/
  noCode11 : s.fstate ≠ .code11
  /-- (a) -/
  preamblePacket : s.fstate = .preamble → s.cfg.mode = false
  /-- (b) -/
  clearOutside : s.fstate ≠ .receive →
    s.bitsReceived = 0 ∧ s.shift = 0 ∧ s.length = 0 ∧ s.payload = []
  /-- (c) -/
  schedule : s.fstate = .receive → s.sampleIndex ≤ s.nextBit
  /-- (d) -/
  packetLength : s.fstate = .receive → s.cfg.mode = false → s.bitsReceived < 8 →
    s.length = 0 ∧ s.payload = [] ∧ s.shift.toNat < 2 ^ s.bitsReceived
  /-- (e) -/
  packetPayload : s.fstate = .receive → s.cfg.mode = false → 8 ≤ s.bitsReceived →
    1 ≤ s.length ∧ s.length ≤ s.params.maxLen ∧ s.payload.length = (s.bitsReceived - 8) / 8
      ∧ (s.bitsReceived - 8) / 8 < s.length ∧ s.shift.toNat < 2 ^ ((s.bitsReceived - 8) % 8)
  /-- what R163 accepts in test mode -/
  testLength : s.fstate = .receive → s.cfg.mode = false → 8 ≤ s.bitsReceived → s.cfg.test = true →
    s.length = Config.testLen
  /-- (f) -/
  characterBits : s.fstate = .receive → s.cfg.mode = true →
    s.bitsReceived ≤ 7 ∧ s.shift.toNat < 2 ^ s.bitsReceived
  /-- the fields Character mode does not use -/
  characterUnused : s.fstate = .receive → s.cfg.mode = true → s.length = 0 ∧ s.payload = []
  /-- (g) -/
  lastEdge : (s.lastEdgeIndex < s.sampleIndex ∨ s.lastEdgeIndex = s.params.initLastEdge)
    ∧ s.params.initLastEdge ≤ s.sampleIndex

/-- What the output register holds (10_state.md R34, 30_encoding.md R102 to R106): NONE while empty; else a
unit of one of the three kinds whose count is its number of bytes. -/
structure OutputInv (s : State) : Prop where
  emptyIsNone : s.outValid = false → s.outUnit = OutUnit.empty
  kindNamed : s.outValid = true → s.outUnit.kind ≠ .none
  countIsLength : s.outUnit.count = s.outUnit.bytes.length
  packetCount : s.outUnit.kind = .packet → 1 ≤ s.outUnit.count ∧ s.outUnit.count ≤ s.params.maxLen
  charByte : s.outUnit.kind = .char → ∃ b : Byte, s.outUnit.bytes = [b] ∧ b.getLsbD 7 = false
  testLineCount : s.outUnit.kind = .testLine → 2 ≤ s.outUnit.count ∧ s.outUnit.count ≤ 4

/-- The invariant of every reachable state. -/
structure Inv (s : State) : Prop where
  session : SessionInv s
  output : OutputInv s

/-- The reference semantics (00_scope.md R16) at accepted parameters (R17). -/
structure Reference (s : State) : Prop where
  valid : paramsValid s.params = true
  unbounded : s.params.indexWidth = none

/-- The counters stay within INDEX_WIDTH when they become `index`, `next` and `edge` (00_scope.md R16). It is
always so in the reference semantics. -/
def CountersFit (s : State) (index next : Nat) (edge : Int) : Prop :=
  ∀ w, s.params.indexWidth = some w → index < 2 ^ w ∧ next < 2 ^ w ∧ edge < (2 : Int) ^ w

/-- `r` with `f` applied to its next state. -/
def mapNext (f : State → State) (r : Result) : Result :=
  match r with
  | .next s => .next (f s)
  | .fault x => .fault x
  | .refused x => .refused x

/-- `s` with `cfg.debug` at `d`. -/
def setDebug (d : Bool) (s : State) : State := { s with cfg := { s.cfg with debug := d } }

/-- `s` with `cfg.test` at `t`. -/
def setTest (t : Bool) (s : State) : State := { s with cfg := { s.cfg with test := t } }

/-- Whether the row or operation is a host operation, by the format of its word. -/
def isHostOp (i : Instr) : Bool :=
  match encode i with
  | .hostCmd _ => true
  | .stepKey _ => false

/-- Whether an event of code `c` is among `es`. -/
def hasEvent (c : EventCode) (es : List Event) : Bool := es.any fun ev => ev.code == c

/-- The event records the core reports (60_exceptions.md R251, R253 to R256): no NONE, no TIMING_MISMATCH, and
each code with its info. -/
def eventNamed (ev : Event) : Prop :=
  match ev.code, ev.info with
  | .lengthReject, .length l => 1 ≤ l ∧ l ≤ 256
  | .framingError, .data b => b.getLsbD 7 = false
  | .integrityFail, .pair id check => check ≠ ~~~id
  | .sessionEnd, .none => True
  | _, _ => False

/-! ## Step keys as bits -/

/-- The relations of 30_encoding.md R94 between the fields of a key. -/
def keyConsistent (k : StepKey) : Bool :=
  (!k.getLsbD 3 || (k.getLsbD 7 && !k.getLsbD 6))
    && (k.getLsbD 5 || (!k.getLsbD 1 && !k.getLsbD 0))
    && !(k.getLsbD 1 && k.getLsbD 0)
    && (k.getLsbD 8 || !k.getLsbD 2)
    && (!k.getLsbD 2 || (k.getLsbD 7 && !k.getLsbD 6))

/-- The reserved keys of 30_encoding.md R95: `S = 11`, and `M = 1` with `S = 01`. -/
def keyReserved (k : StepKey) : Bool :=
  (k.getLsbD 7 && k.getLsbD 6) || (k.getLsbD 8 && !k.getLsbD 7 && k.getLsbD 6)

/-! ## Sample sequences -/

/-- No sample of the list rises from the one before it, `prev` being before the first (40_extractor.md
R123). -/
def noRisingEdge (prev : Bool) : List Bool → Bool
  | [] => true
  | v :: rest => (prev || !v) && noRisingEdge v rest

/-- No sample of the list is an edge in the 1× window, for a sequence that starts at index `i` with its last
edge at `last` and `prev` before its first sample (40_extractor.md R122, R124, R127). -/
def noLockEdge (c : Config.Params) (i : Nat) (last : Int) (prev : Bool) : List Bool → Bool
  | [] => true
  | v :: rest =>
    (v == prev || !windowMatch c 1 ((i : Int) - last))
      && noLockEdge c (i + 1) (if v == prev then last else (i : Int)) v rest

end Sys2Proof.Machine
end

