-- ==== Sys2Proof/Certificates/Slice0/Obligations.lean ====
section
/-! DEFINITION. The statements for the provers. Every statement is for every parameter record of State (log 1),
so for every value of the parameters the spec leaves open. Results are written as whole states, which is their
frame: every field not named is unchanged. -/

open Sys2Proof Sys2Proof.Machine

/-! ## Encoding -/

/-- The words 95_test_vectors.md writes out decode to the operations and rows written there: the host command words
of V14 and POP's, the step keys of V7, of V12 and of V16, and the first and last key of each reserved range of V16. A
number with a bit above its format is rejected. -/
def Obligations.SpecWordsDecodeAsWritten : Prop :=
  (decodeTableWord 11 0x000 = some (.nop 0x00#8)
      ∧ decodeTableWord 11 0x101 = some (.openSession 0x01#8)
      ∧ decodeTableWord 11 0x106 = some (.openSession 0x06#8)
      ∧ decodeTableWord 11 0x1F9 = some (.openSession 0xF9#8)
      ∧ decodeTableWord 11 0x200 = some (.closeSession 0x00#8)
      ∧ decodeTableWord 11 0x30F = some (.push 0x0F#8)
      ∧ decodeTableWord 11 0x400 = some (.pop 0x00#8)
      ∧ decodeTableWord 11 0x500 = some (.status 0x00#8)
      ∧ decodeTableWord 11 0x600 = some (.clrerr 0x00#8)
      ∧ decodeTableWord 11 0x700 = some (.reserved111 0x00#8))
    ∧ (decodeTableWord 9 0x000 = some (.pIdleQuiet false false false false false)
      ∧ decodeTableWord 9 0x032 = some (.pIdleEdgeSync1 true false false false)
      ∧ decodeTableWord 9 0x020 = some (.pIdleEdgeNoise false false false false)
      ∧ decodeTableWord 9 0x031 = some (.pIdleEdgeNoise true false false true)
      ∧ decodeTableWord 9 0x040 = some (.pPreQuiet false false false false false)
      ∧ decodeTableWord 9 0x071 = some (.pPreEdgeStart true false false false)
      ∧ decodeTableWord 9 0x061 = some (.pPreEdgeStart false false false false)
      ∧ decodeTableWord 9 0x062 = some (.pPreEdgeExtend false false false)
      ∧ decodeTableWord 9 0x060 = some (.pPreEdgeLost false false false)
      ∧ decodeTableWord 9 0x0A2 = some (.pRxWait true false false true false)
      ∧ decodeTableWord 9 0x090 = some (.pRxWait false true false false false)
      ∧ decodeTableWord 9 0x098 = some (.pRxBit false true false false false))
    ∧ (decodeTableWord 9 0x100 = some (.cIdleQuiet false false false false false)
      ∧ decodeTableWord 9 0x132 = some (.cIdleRise false false true false)
      ∧ decodeTableWord 9 0x122 = some (.cIdleFall false false true false)
      ∧ decodeTableWord 9 0x120 = some (.cIdleFall false false false false)
      ∧ decodeTableWord 9 0x1A0 = some (.cRxWait true false false false false)
      ∧ decodeTableWord 9 0x198 = some (.cRxData false true false false)
      ∧ decodeTableWord 9 0x1A8 = some (.cRxData true false false false)
      ∧ decodeTableWord 9 0x18C = some (.cRxStopOk false false false)
      ∧ decodeTableWord 9 0x19C = some (.cRxStopErr false false false))
    ∧ (decodeTableWord 9 0x0C0 = some (.stepkeyReserved false false false false false false false)
      ∧ decodeTableWord 9 0x0FF = some (.stepkeyReserved false true true true true true true)
      ∧ decodeTableWord 9 0x1C0 = some (.stepkeyReserved true false false false false false false)
      ∧ decodeTableWord 9 0x1FF = some (.stepkeyReserved true true true true true true true)
      ∧ decodeTableWord 9 0x140 = some (.stepkeyReservedCharPre false false false false false false)
      ∧ decodeTableWord 9 0x17F = some (.stepkeyReservedCharPre true true true true true true))
    ∧ decodeTableWord 11 0x800 = none ∧ decodeTableWord 9 0x200 = none

/-- No bit of an encoding is dropped: every instruction, reserved ones too, at every operand, is what its
word decodes to. -/
def Obligations.DecodeOfEncodeIsTheInstruction : Prop := ∀ i : Instr, decode (encode i) = i

/-- Each word has one meaning: every host command word and every step key is the word of what it decodes
to. -/
def Obligations.EncodeOfDecodeIsTheWord : Prop := ∀ w : MachineWord, encode (decode w) = w

/-- Decoding is unambiguous: a word of either format matches exactly one row of spec/opcode_table.json, the row of
the instruction it decodes to. Of step keys, 30_encoding.md R96: a key that is not reserved matches exactly one of
the sixteen transition rows and a reserved key none; the keys R94 and R95 leave are the well-formed ones. -/
def Obligations.EveryWordMatchesOneRow : Prop :=
  (∀ w : MachineWord,
      (hostRows ++ transitionRows ++ reservedRows).filter (fun r => r.matches w) = [tableRow (decode w)])
    ∧ ∀ k : StepKey,
      transitionRows.filter (fun r => r.matches (.stepKey k))
          = (if keyReserved k then [] else [tableRow (decodeStepKey k)])
        ∧ (decodeStepKey k).wellFormed = (keyConsistent k && !keyReserved k)

/-! ## The step -/

/-- A step runs the decoded instruction: a host command word, or the row a presented sample's key selects, in
the state with its input taken; with nothing presented the state is held. A host command word placed by
`withFetchWord` is the one that runs. The input queue and the single sample are the model's (log 3, log 5, log 8). -/
def Obligations.StepRunsTheDecodedInstruction : Prop :=
  ∀ (s : State) (rest : List Input), paramsValid s.params = true →
    (∀ w, s.input = .command w :: rest → step s = exec (decodeHostCmd w) { s with input := rest })
      ∧ (∀ v, s.input = .sample v :: rest →
          step s = exec (decodeStepKey (assembleKey v s))
            { s with input := rest, result := ⟨true, [], .none⟩ })
      ∧ (s.input = [] → step s = .next s)
      ∧ (∀ nbits w i, formatOf nbits w = .hostCmd → decodeTableWord nbits w = some i →
          step (s.withFetchWord nbits w) = exec i s)

/-- A well-formed step key placed for the next step is the key the step assembles, so its row is the one that
runs (log 8). The windows must not be empty. -/
def Obligations.PresentedKeySelectsItsRow : Prop :=
  ∀ (s : State) (k : StepKey), paramsValid s.params = true →
    windowMatch s.params 1 s.params.bitPeriod = true →
    (decodeStepKey k).wellFormed = true →
    step (s.withFetchWord 9 k.toNat)
      = exec (decodeStepKey k)
          { presentKey k s with input := s.input, result := ⟨true, [], .none⟩ }

/-- 70_reset_and_hazards.md R290, 10_state.md R42 and R43: the reset input gives every field its reset value, with
no event; the parameters and what is presented next stay (log 6), and the result record is the model's initial one
(log 4). -/
def Obligations.ResetInputGivesResetValues : Prop :=
  ∀ (s : State) (rest : List Input), paramsValid s.params = true → s.input = .reset :: rest →
    ∃ t, step s = .next t ∧ t.sessionOpen = false ∧ t.cfg = ⟨false, false, false⟩ ∧ t.outValid = false
      ∧ t.outUnit = ⟨.none, 0, []⟩ ∧ t.errLength = false ∧ t.errFraming = false ∧ t.errIntegrity = false
      ∧ t.sampleIndex = 0 ∧ t.prevSample = s.params.initPrevSample
      ∧ t.lastEdgeIndex = s.params.initLastEdge ∧ t.fstate = .idle ∧ t.nextBit = 0 ∧ t.invert = false
      ∧ t.bitsReceived = 0 ∧ t.shift = 0 ∧ t.length = 0 ∧ t.payload = []
      ∧ t.params = s.params ∧ t.input = rest ∧ t.result = ⟨false, [], .none⟩

/-- 10_state.md R42: hardware reset, at any accepted parameters, gives every field the value of the rule's table, with
the session part at the session-open values. -/
def Obligations.BootGivesTheResetValues : Prop :=
  ∀ c : Config.Params, paramsValid c = true →
    ∃ t, boot c = .next t ∧ t.sessionOpen = false ∧ t.cfg = ⟨false, false, false⟩ ∧ t.outValid = false
      ∧ t.outUnit = ⟨.none, 0, []⟩ ∧ t.errLength = false ∧ t.errFraming = false ∧ t.errIntegrity = false
      ∧ t.sampleIndex = 0 ∧ t.prevSample = c.initPrevSample ∧ t.lastEdgeIndex = c.initLastEdge
      ∧ t.fstate = .idle ∧ t.nextBit = 0 ∧ t.invert = false ∧ t.bitsReceived = 0 ∧ t.shift = 0
      ∧ t.length = 0 ∧ t.payload = []

/-! ## Parameters -/

/-- 40_extractor.md R127: the window match as signed bounds on the scaled deviation, for every form and bound;
with the defaults the windows are `0.6 P < Δ < 1.4 P` and `3.6 P < Δ < 4.4 P`; `w1` and `w4` ask for an edge. -/
def Obligations.WindowMatchIsTheToleranceBand : Prop :=
  (∀ (c : Config.Params) (k : Nat) (delta : Int), k = 1 ∨ k = 4 →
    let dev : Int := c.tolDen * (delta - k * c.bitPeriod)
    let lim : Int :=
      match c.windowForm with
      | .absolute => c.tolNum * c.bitPeriod
      | .relative => c.tolNum * k * c.bitPeriod
    (windowMatch c k delta = true ↔
      match c.windowBounds with
      | .opened => -lim < dev ∧ dev < lim
      | .closed => -lim ≤ dev ∧ dev ≤ lim))
  ∧ (∀ (p : Nat) (delta : Int),
      (windowMatch (Config.withPeriod p) 1 delta = true ↔ 3 * (p : Int) < 5 * delta ∧ 5 * delta < 7 * p)
      ∧ (windowMatch (Config.withPeriod p) 4 delta = true ↔ 18 * (p : Int) < 5 * delta ∧ 5 * delta < 22 * p))
  ∧ (∀ (v : Bool) (s : State) (k : Nat), windowOf k v s = true ↔
      v ≠ s.prevSample ∧ windowMatch s.params k ((s.sampleIndex : Int) - s.lastEdgeIndex) = true)

/-- 00_scope.md R17: a configuration that violates a constraint is refused, at boot and at every step. -/
def Obligations.InvalidConfigurationIsRefused : Prop :=
  ∀ (s : State),
    (s.params.bitPeriod < 1 ∨ s.params.firstOffset < 1 ∨ s.params.maxLen < 1 ∨ 256 < s.params.maxLen
      ∨ ∃ delta : Nat, windowMatch s.params 1 delta = true ∧ windowMatch s.params 4 delta = true) →
    step s = .refused .invalidConfiguration ∧ boot s.params = .refused .invalidConfiguration

/-- The check of the parameters is exact: 00_scope.md R17 and the ranges of R7, R15 and R16 (log 12, log 13). -/
def Obligations.ParameterCheckIsExact : Prop :=
  ∀ c : Config.Params, paramsValid c = true ↔
    1 ≤ c.bitPeriod ∧ 1 ≤ c.firstOffset ∧ 1 ≤ c.maxLen ∧ c.maxLen ≤ 256
      ∧ (∀ delta : Nat, ¬ (windowMatch c 1 delta = true ∧ windowMatch c 4 delta = true))
      ∧ 1 ≤ c.tolDen ∧ c.initLastEdge ≤ 0 ∧ c.indexWidth ≠ some 0

/-- 00_scope.md R17: with the default tolerance the windows are disjoint for every period, form and bound. -/
def Obligations.DefaultToleranceIsAlwaysAccepted : Prop :=
  ∀ (p : Nat) (f : Config.WindowForm) (b : Config.WindowBounds), 1 ≤ p →
    paramsValid { Config.withPeriod p with windowForm := f, windowBounds := b } = true

/-- 00_scope.md R10, 70_reset_and_hazards.md R302: FIRST_OFFSET is `ceil(1.5 × P)` but at `P = 1`, where a model
overrides it to 1, so that at every period the first instant lies in the cell after the synchronising one; and at
`P = 2` each window admits exactly one interval. -/
def Obligations.ModelOffsetKeepsInstantsInTheirCells : Prop :=
  (∀ p : Nat, 1 ≤ p →
    let c := Config.withPeriod p
    paramsValid c = true ∧ c.bitPeriod = p ∧ p ≤ c.firstOffset ∧ c.firstOffset < 2 * p
      ∧ c.firstOffset = if p = 1 then 1 else (3 * p + 1) / 2)
    ∧ ∀ delta : Int,
      (windowMatch (Config.withPeriod 2) 1 delta = true ↔ delta = 2)
        ∧ (windowMatch (Config.withPeriod 2) 4 delta = true ↔ delta = 8)

/-- 10_state.md R20: the parameters never change while the machine runs. -/
def Obligations.ParametersNeverChange : Prop :=
  ∀ s t : State, step s = .next t → t.params = s.params

/-! ## The sample step -/

/-- A sample step is `exec` of the row its key selects, and the key's bits are the fields of 30_encoding.md
R93, read from the state at the start of the step (40_extractor.md R121 to R129). -/
def Obligations.SampleStepIsExecOfItsKey : Prop :=
  ∀ (v : Bool) (s : State),
    let k := assembleKey v s
    let e : Bool := v != s.prevSample
    let delta : Int := (s.sampleIndex : Int) - s.lastEdgeIndex
    sampleStep v s = exec (decodeStepKey k) s
      ∧ k.getLsbD 8 = s.cfg.mode ∧ k.extractLsb' 6 2 = s.fstate.code ∧ k.getLsbD 5 = e ∧ k.getLsbD 4 = v
      ∧ k.getLsbD 3 = (decide (s.fstate = .receive) && decide (s.sampleIndex = s.nextBit))
      ∧ k.getLsbD 2 = (s.cfg.mode && decide (s.bitsReceived = 7))
      ∧ k.getLsbD 1 = (e && windowMatch s.params 1 delta) ∧ k.getLsbD 0 = (e && windowMatch s.params 4 delta)

/-- 40_extractor.md R125, in every framing state and both modes: what the extractor leaves after a sample
step. -/
def Obligations.EverySampleStepUpdatesTheExtractor : Prop :=
  ∀ (v : Bool) (s t : State), sampleStep v s = .next t →
    t.prevSample = v ∧ t.sampleIndex = s.sampleIndex + 1
      ∧ t.lastEdgeIndex = if v ≠ s.prevSample then (s.sampleIndex : Int) else s.lastEdgeIndex

/-- 30_encoding.md R94 and R95: in a state that meets the invariant the assembled key meets the relations of R94
and is not reserved. -/
def Obligations.AssembledKeysAreConsistent : Prop :=
  ∀ (v : Bool) (s : State), Inv s → paramsValid s.params = true →
    keyConsistent (assembleKey v s) = true ∧ keyReserved (assembleKey v s) = false

/-- 30_encoding.md R95: the reserved keys, `S = 11` and `M = 1` with `S = 01`, fault as instructions and in a sample
step, and no state that meets the invariant produces one. -/
def Obligations.ReservedKeysFault : Prop :=
  ∀ (s : State) (m e v d l w1 w4 : Bool),
    exec (.stepkeyReserved m e v d l w1 w4) s = .fault .unreachableFramingState
      ∧ exec (.stepkeyReservedCharPre e v d l w1 w4) s = .fault .unreachableFramingState
      ∧ (∀ k : StepKey, keyReserved k = true → exec (decodeStepKey k) s = .fault .unreachableFramingState)
      ∧ (keyReserved (assembleKey v s) = true → sampleStep v s = .fault .unreachableFramingState)
      ∧ (Inv s → keyReserved (assembleKey v s) = false)

/-- 40_extractor.md R132: `next_bit` is set from an edge only where RECEIVE is entered, and moves only by `P`
at a processed instant. -/
def Obligations.ScheduleMovesOnlyAtEntryAndInstants : Prop :=
  ∀ (v : Bool) (s t : State), sampleStep v s = .next t →
    t.nextBit =
      if s.fstate = .receive then
        (if s.sampleIndex = s.nextBit then s.nextBit + s.params.bitPeriod else s.nextBit)
      else if t.fstate = .receive then s.sampleIndex + s.params.firstOffset
      else s.nextBit

/-- 00_scope.md R16: a finite-width build does what the reference does while its counters fit, and stops by name
when one does not (93_implementation_defined.md I7, log 11). -/
def Obligations.FiniteWidthRefinesTheReference : Prop :=
  ∀ (v : Bool) (s t : State) (w : Nat), s.params.indexWidth = some w →
    sampleStep v { s with params := { s.params with indexWidth := none } } = .next t →
    ((t.sampleIndex < 2 ^ w ∧ t.nextBit < 2 ^ w ∧ t.lastEdgeIndex < (2 : Int) ^ w) →
        sampleStep v s = .next { t with params := s.params })
      ∧ (¬ (t.sampleIndex < 2 ^ w ∧ t.nextBit < 2 ^ w ∧ t.lastEdgeIndex < (2 : Int) ^ w) →
        sampleStep v s = .fault .indexOverflow)

/-! ## Packet mode -/

/-- 41_packet.md R150: the state after a Packet-mode sample step, from each state and condition. -/
def Obligations.PacketStateGraph : Prop :=
  ∀ (v : Bool) (s t : State), s.cfg.mode = false → sampleStep v s = .next t →
    let e : Bool := v != s.prevSample
    let delta : Int := (s.sampleIndex : Int) - s.lastEdgeIndex
    let in1 : Bool := windowMatch s.params 1 delta
    let in4 : Bool := windowMatch s.params 4 delta
    let byte : Byte := (s.shift <<< 1) ||| (if (v ^^ s.invert) then 1#8 else 0#8)
    let len : Nat := if byte = 0#8 then 256 else byte.toNat
    (s.fstate = .idle → t.fstate = if e && in1 then .preamble else .idle)
      ∧ (s.fstate = .preamble →
          t.fstate = if !e then .preamble else if in4 then .receive else if in1 then .preamble else .idle)
      ∧ (s.fstate = .receive → s.sampleIndex ≠ s.nextBit → t.fstate = .receive)
      ∧ (s.fstate = .receive → s.sampleIndex = s.nextBit →
          t.fstate =
            if (s.bitsReceived = 7 ∧ (s.params.maxLen < len ∨ (s.cfg.test = true ∧ len ≠ 2)))
                ∨ (8 ≤ s.bitsReceived ∧ (s.bitsReceived - 7) % 8 = 0 ∧ s.payload.length + 1 = s.length)
            then .idle else .receive)

/-- 41_packet.md R151, R154 and 42_character.md R191, and the rows of R158 and R194 on a sample that is no edge: only
the previous sample and the sample index are written. -/
def Obligations.QuietRowsOnlyCountTheSample : Prop :=
  ∀ (s : State) (v d l w1 w4 : Bool),
    CountersFit s (s.sampleIndex + 1) s.nextBit s.lastEdgeIndex →
    let t : State := { s with prevSample := v, sampleIndex := s.sampleIndex + 1 }
    exec (.pIdleQuiet v d l w1 w4) s = .next t ∧ exec (.pPreQuiet v d l w1 w4) s = .next t
      ∧ exec (.cIdleQuiet v d l w1 w4) s = .next t
      ∧ exec (.pRxWait false v l w1 w4) s = .next t ∧ exec (.cRxWait false v l w1 w4) s = .next t

/-- 41_packet.md R153, R156 and 42_character.md R193, and the rows of R158 and R194 on an edge: an edge no rule acts
on is recorded as the last edge and nothing else happens; no event is reported. -/
def Obligations.IgnoredEdgesAreOnlyRecorded : Prop :=
  ∀ (s : State) (v d l w1 w4 : Bool),
    CountersFit s (s.sampleIndex + 1) s.nextBit s.sampleIndex →
    let t (x : Bool) : State :=
      { s with prevSample := x, lastEdgeIndex := s.sampleIndex, sampleIndex := s.sampleIndex + 1 }
    exec (.pIdleEdgeNoise v d l w4) s = .next (t v) ∧ exec (.pPreEdgeExtend v d l) s = .next (t v)
      ∧ exec (.pRxWait true v l w1 w4) s = .next (t v) ∧ exec (.cRxWait true v l w1 w4) s = .next (t v)
      ∧ exec (.cIdleFall d l w1 w4) s = .next (t false)

/-- 41_packet.md R152 and R157: the lock edge moves to PREAMBLE and a lost edge back to IDLE, and each is
recorded as the last edge. -/
def Obligations.LockAndLostEdgesMoveTheFramer : Prop :=
  ∀ (s : State) (v d l w4 : Bool),
    CountersFit s (s.sampleIndex + 1) s.nextBit s.sampleIndex →
    let t (f : FState) : State :=
      { s with
        fstate := f, prevSample := v, lastEdgeIndex := s.sampleIndex, sampleIndex := s.sampleIndex + 1 }
    exec (.pIdleEdgeSync1 v d l w4) s = .next (t .preamble) ∧ exec (.pPreEdgeLost v d l) s = .next (t .idle)

/-- 41_packet.md R155: the sync edge latches the polarity, schedules the first instant and clears the
frame. -/
def Obligations.SyncEdgeStartsAFrame : Prop :=
  ∀ (s : State) (v d l w1 : Bool),
    CountersFit s (s.sampleIndex + 1) (s.sampleIndex + s.params.firstOffset) s.sampleIndex →
    exec (.pPreEdgeStart v d l w1) s = .next
      { s with
        invert := (match s.params.polarityLatch with | .asSample => v | .complement => !v)
        nextBit := s.sampleIndex + s.params.firstOffset
        bitsReceived := 0, shift := 0, length := 0, payload := [], fstate := .receive
        prevSample := v, lastEdgeIndex := s.sampleIndex, sampleIndex := s.sampleIndex + 1 }

/-- 41_packet.md R160, R161 and R169 on the first seven length bits: the effective bit enters `shift` from the
right, and the schedule advances by one period. -/
def Obligations.LengthBitsShiftIn : Prop :=
  ∀ (s : State) (e v l w1 w4 : Bool), s.bitsReceived < 7 →
    CountersFit s (s.sampleIndex + 1) (s.nextBit + s.params.bitPeriod)
      (if e then (s.sampleIndex : Int) else s.lastEdgeIndex) →
    exec (.pRxBit e v l w1 w4) s = .next
      { s with
        shift := (s.shift <<< 1) ||| (if (v ^^ s.invert) then 1#8 else 0#8)
        bitsReceived := s.bitsReceived + 1
        nextBit := s.nextBit + s.params.bitPeriod
        prevSample := v
        lastEdgeIndex := if e then (s.sampleIndex : Int) else s.lastEdgeIndex
        sampleIndex := s.sampleIndex + 1 }

/-- 41_packet.md R162 and R163, the 8th bit: a length byte of 0 is 256; a length over MAX_LEN, or in test mode
not 2, reports one LENGTH_REJECT and returns to IDLE with the frame cleared; any other length is stored. -/
def Obligations.EighthBitDecidesTheLength : Prop :=
  ∀ (s : State) (e v l w1 w4 : Bool), s.bitsReceived = 7 →
    CountersFit s (s.sampleIndex + 1) (s.nextBit + s.params.bitPeriod)
      (if e then (s.sampleIndex : Int) else s.lastEdgeIndex) →
    let byte : Byte := (s.shift <<< 1) ||| (if (v ^^ s.invert) then 1#8 else 0#8)
    let len : Nat := if byte = 0#8 then 256 else byte.toNat
    let after : State :=
      { s with
        nextBit := s.nextBit + s.params.bitPeriod
        prevSample := v
        lastEdgeIndex := if e then (s.sampleIndex : Int) else s.lastEdgeIndex
        sampleIndex := s.sampleIndex + 1 }
    ((s.params.maxLen < len ∨ (s.cfg.test = true ∧ len ≠ 2)) →
        exec (.pRxBit e v l w1 w4) s = .next
          { after with
            bitsReceived := 0, shift := 0, length := 0, payload := [], fstate := .idle, errLength := true
            result := { s.result with events := s.result.events ++ [⟨.lengthReject, .length len⟩] } })
      ∧ (¬ (s.params.maxLen < len ∨ (s.cfg.test = true ∧ len ≠ 2)) →
        exec (.pRxBit e v l w1 w4) s = .next { after with bitsReceived := 8, shift := 0, length := len })

/-- 41_packet.md R164, a payload bit that completes no frame: every 8th bit completes a byte, which is appended
while `shift` is cleared; any other bit only shifts in. -/
def Obligations.PayloadBitsPackIntoBytes : Prop :=
  ∀ (s : State) (e v l w1 w4 : Bool), 8 ≤ s.bitsReceived →
    CountersFit s (s.sampleIndex + 1) (s.nextBit + s.params.bitPeriod)
      (if e then (s.sampleIndex : Int) else s.lastEdgeIndex) →
    let byte : Byte := (s.shift <<< 1) ||| (if (v ^^ s.invert) then 1#8 else 0#8)
    let after : State :=
      { s with
        bitsReceived := s.bitsReceived + 1
        nextBit := s.nextBit + s.params.bitPeriod
        prevSample := v
        lastEdgeIndex := if e then (s.sampleIndex : Int) else s.lastEdgeIndex
        sampleIndex := s.sampleIndex + 1 }
    ((s.bitsReceived - 7) % 8 ≠ 0 → exec (.pRxBit e v l w1 w4) s = .next { after with shift := byte })
      ∧ ((s.bitsReceived - 7) % 8 = 0 → s.payload.length + 1 ≠ s.length →
        exec (.pRxBit e v l w1 w4) s = .next { after with shift := 0, payload := s.payload ++ [byte] })

/-- 41_packet.md R165 to R168, the bit that completes a frame, with the output register empty: outside test mode
the payload is emitted as a PACKET; in test mode `id` is emitted as a TEST_LINE if `check` is its complement, and
else INTEGRITY_FAIL is reported and nothing emitted. The framer returns to IDLE, cleared. -/
def Obligations.CompletionEmitsOrReports : Prop :=
  ∀ (s : State) (e v l w1 w4 : Bool), 8 ≤ s.bitsReceived → (s.bitsReceived - 7) % 8 = 0 →
    s.payload.length + 1 = s.length →
    CountersFit s (s.sampleIndex + 1) (s.nextBit + s.params.bitPeriod)
      (if e then (s.sampleIndex : Int) else s.lastEdgeIndex) →
    let byte : Byte := (s.shift <<< 1) ||| (if (v ^^ s.invert) then 1#8 else 0#8)
    let after : State :=
      { s with
        bitsReceived := 0, shift := 0, length := 0, payload := [], fstate := .idle
        nextBit := s.nextBit + s.params.bitPeriod
        prevSample := v
        lastEdgeIndex := if e then (s.sampleIndex : Int) else s.lastEdgeIndex
        sampleIndex := s.sampleIndex + 1 }
    (s.cfg.test = false → s.outValid = false →
        exec (.pRxBit e v l w1 w4) s = .next
          { after with outValid := true, outUnit := ⟨.packet, s.length, s.payload ++ [byte]⟩ })
      ∧ (∀ id, s.cfg.test = true → s.payload = [id] → byte = ~~~id → s.outValid = false →
        exec (.pRxBit e v l w1 w4) s = .next { after with outValid := true, outUnit := testLineUnit id })
      ∧ (∀ id, s.cfg.test = true → s.payload = [id] → byte ≠ ~~~id →
        exec (.pRxBit e v l w1 w4) s = .next
          { after with
            errIntegrity := true
            result :=
              { s.result with events := s.result.events ++ [⟨.integrityFail, .pair id byte⟩] } })

/-- 30_encoding.md R105: a TEST_LINE is the decimal number `id` in ASCII digits, most significant first, without
leading zeros, then one line feed. The digit codes and the terminator are marked "from general knowledge, not in
source" there (log 17). -/
def Obligations.TestLineIsTheDecimalNumber : Prop :=
  ∀ id : Byte, ∃ ds : List Nat,
    (testLineUnit id).kind = .testLine ∧ (testLineUnit id).count = ds.length + 1
      ∧ (testLineUnit id).bytes = ds.map (fun d => BitVec.ofNat 8 (0x30 + d)) ++ [0x0A#8]
      ∧ (∀ d ∈ ds, d < 10) ∧ Nat.ofDigits 10 ds.reverse = id.toNat
      ∧ 1 ≤ ds.length ∧ ds.length ≤ 3 ∧ (ds.head? = some 0 → ds = [0])

/-- 43_host_ops.md R226: `emit` with a unit pending faults, at every instruction that emits. -/
def Obligations.EmitIntoAFullRegisterFaults : Prop :=
  ∀ (s : State) (e v l w1 w4 : Bool), s.outValid = true →
    let byte : Byte := (s.shift <<< 1) ||| (if (v ^^ s.invert) then 1#8 else 0#8)
    exec (.cRxStopOk e w1 w4) s = .fault .outputOverrun
      ∧ (8 ≤ s.bitsReceived → (s.bitsReceived - 7) % 8 = 0 → s.payload.length + 1 = s.length →
          (s.cfg.test = false ∨ ∃ id, s.payload = [id] ∧ byte = ~~~id) →
          exec (.pRxBit e v l w1 w4) s = .fault .outputOverrun)

/-! ## Character mode -/

/-- 42_character.md R190: the state after a Character-mode sample step, from each state and condition. -/
def Obligations.CharacterStateGraph : Prop :=
  ∀ (v : Bool) (s t : State), s.cfg.mode = true → sampleStep v s = .next t →
    let rising : Bool := !s.prevSample && v
    (s.fstate = .idle → t.fstate = if rising then .receive else .idle)
      ∧ (s.fstate = .receive → t.fstate =
          if s.sampleIndex = s.nextBit ∧ s.bitsReceived = 7 then .idle else .receive)
      ∧ t.fstate ≠ .preamble
      ∧ (s.fstate = .receive → s.sampleIndex = s.nextBit → s.bitsReceived = 7 →
          (v = false → t.outValid = true ∧ t.outUnit = ⟨.char, 1, [s.shift &&& 0x7F#8]⟩
            ∧ t.result = s.result ∧ t.errFraming = s.errFraming)
          ∧ (v = true → t.outValid = s.outValid ∧ t.outUnit = s.outUnit ∧ t.errFraming = true))

/-- 42_character.md R192 and R195: the rising edge schedules the first data instant and clears the accumulator; a
data instant shifts in the raw sample. -/
def Obligations.StartEdgeAndDataInstants : Prop :=
  ∀ (s : State) (e v d l w1 w4 : Bool),
    (CountersFit s (s.sampleIndex + 1) (s.sampleIndex + s.params.firstOffset) s.sampleIndex →
        exec (.cIdleRise d l w1 w4) s = .next
          { s with
            nextBit := s.sampleIndex + s.params.firstOffset, bitsReceived := 0, shift := 0
            fstate := .receive, prevSample := true
            lastEdgeIndex := s.sampleIndex, sampleIndex := s.sampleIndex + 1 })
      ∧ (CountersFit s (s.sampleIndex + 1) (s.nextBit + s.params.bitPeriod)
          (if e then (s.sampleIndex : Int) else s.lastEdgeIndex) →
        exec (.cRxData e v w1 w4) s = .next
          { s with
            shift := (s.shift <<< 1) ||| (if v then 1#8 else 0#8)
            bitsReceived := s.bitsReceived + 1
            nextBit := s.nextBit + s.params.bitPeriod
            prevSample := v
            lastEdgeIndex := if e then (s.sampleIndex : Int) else s.lastEdgeIndex
            sampleIndex := s.sampleIndex + 1 })

/-- 42_character.md R196 and R197: a low stop bit emits the seven data bits as a CHAR; a high one reports
FRAMING_ERROR with them and emits nothing; either way the framer returns to IDLE. -/
def Obligations.StopBitEmitsOrReports : Prop :=
  ∀ (s : State) (e w1 w4 : Bool),
    CountersFit s (s.sampleIndex + 1) (s.nextBit + s.params.bitPeriod)
      (if e then (s.sampleIndex : Int) else s.lastEdgeIndex) →
    let after : State :=
      { s with
        bitsReceived := 0, shift := 0, fstate := .idle
        nextBit := s.nextBit + s.params.bitPeriod
        lastEdgeIndex := if e then (s.sampleIndex : Int) else s.lastEdgeIndex
        sampleIndex := s.sampleIndex + 1 }
    (s.outValid = false →
        exec (.cRxStopOk e w1 w4) s = .next
          { after with
            prevSample := false, outValid := true, outUnit := ⟨.char, 1, [s.shift &&& 0x7F#8]⟩ })
      ∧ exec (.cRxStopErr e w1 w4) s = .next
          { after with
            prevSample := true, errFraming := true
            result :=
              { s.result with
                events := s.result.events ++ [⟨.framingError, .data (s.shift &&& 0x7F#8)⟩] } }

/-! ## Host operations -/

/-- 43_host_ops.md R221 and R228: NOP changes nothing and CLRERR clears the three sticky flags, in every state and at
every ARG. 30_encoding.md R92 and 43_host_ops.md R229 give the hardware's answer to the reserved OP 111, accepted 0 and
no change; that `exec` gives the word this answer, beside a model's refusal of a program that holds it, is the model's
reading (log 9). -/
def Obligations.NopClrerrAndReservedComplete : Prop :=
  ∀ (s : State) (a : Byte),
    exec (.nop a) s = .next { s with result := ⟨true, [], .none⟩ }
      ∧ exec (.clrerr a) s = .next
          { s with
            errLength := false, errFraming := false, errIntegrity := false, result := ⟨true, [], .none⟩ }
      ∧ exec (.reserved111 a) s = .next { s with result := ⟨false, [], .none⟩ }

/-- 43_host_ops.md R222: OPEN latches the three configuration bits, starts the session part at its session-open
values and clears the sticky flags; the output register stays. -/
def Obligations.OpenStartsASession : Prop :=
  ∀ (s : State) (a : Byte),
    exec (.openSession a) s = .next
      { s with
        cfg := ⟨a.getLsbD 0, a.getLsbD 1, a.getLsbD 2⟩, sessionOpen := true
        sampleIndex := 0, prevSample := s.params.initPrevSample, lastEdgeIndex := s.params.initLastEdge
        fstate := .idle, nextBit := 0, invert := false
        bitsReceived := 0, shift := 0, length := 0, payload := []
        errLength := false, errFraming := false, errIntegrity := false
        result := ⟨true, [], .none⟩ }

/-- 43_host_ops.md R223 and R225: CLOSE ends an open session and reports SESSION_END, and is refused without one; POP
returns the pending unit and empties the register, and returns NONE where there is none. -/
def Obligations.CloseAndPopComplete : Prop :=
  ∀ (s : State) (a : Byte),
    exec (.closeSession a) s = .next
        (if s.sessionOpen then
          { s with sessionOpen := false, result := ⟨true, [⟨.sessionEnd, .none⟩], .none⟩ }
        else { s with result := ⟨false, [], .none⟩ })
      ∧ exec (.pop a) s = .next
        (if s.outValid then
          { s with outValid := false, outUnit := ⟨.none, 0, []⟩, result := ⟨true, [], .unit s.outUnit⟩ }
        else { s with result := ⟨true, [], .unit ⟨.none, 0, []⟩⟩ })

/-- 30_encoding.md R87 and 43_host_ops.md R227: STATUS returns the status word, bit by bit, and changes nothing. -/
def Obligations.StatusMirrorsTheState : Prop :=
  ∀ (s : State) (a : Byte), ∃ w : StatusWord,
    exec (.status a) s = .next { s with result := ⟨true, [], .status w⟩ }
      ∧ w.getLsbD 0 = s.sessionOpen
      ∧ w.extractLsb' 1 2 =
          (match s.fstate with | .idle => 0b00#2 | .preamble => 0b01#2 | .receive => 0b10#2 | .code11 => 0b11#2)
      ∧ w.getLsbD 3 = s.outValid ∧ w.getLsbD 4 = s.errLength ∧ w.getLsbD 5 = s.errFraming
      ∧ w.getLsbD 6 = s.errIntegrity ∧ w.getLsbD 7 = (s.sessionOpen && !s.outValid)
      ∧ w.getLsbD 8 = s.cfg.mode ∧ w.getLsbD 9 = s.cfg.test ∧ w.getLsbD 10 = s.cfg.debug
      ∧ w.extractLsb' 11 5 = 0#5

/-- 43_host_ops.md R224 and 40_extractor.md R120: a PUSH that is not ready changes nothing and is answered with
accepted 0; else it is the sample steps of the byte's bits, most significant first, in a result that starts accepted
and empty. -/
def Obligations.PushIsEightSampleSteps : Prop :=
  ∀ (s : State) (b : Byte),
    ((s.sessionOpen = false ∨ s.outValid = true) →
        exec (.push b) s = .next { s with result := ⟨false, [], .none⟩ })
      ∧ (s.sessionOpen = true → s.outValid = false →
        exec (.push b) s =
          runSamples
            [b.getLsbD 7, b.getLsbD 6, b.getLsbD 5, b.getLsbD 4, b.getLsbD 3, b.getLsbD 2, b.getLsbD 1,
              b.getLsbD 0]
            { s with result := ⟨true, [], .none⟩ })

/-- 43_host_ops.md R224, 41_packet.md R173, 42_character.md R201 and 60_exceptions.md R261: in the reference semantics
a PUSH that is ready completes. It takes 8 samples, reports at most one event, emits at most one unit, and never
both, and its only events are the three a sample step reports. -/
def Obligations.ReadyPushCompletesWithAtMostOneFrameEnd : Prop :=
  ∀ (s : State) (b : Byte), Inv s → Reference s → s.sessionOpen = true → s.outValid = false →
    ∃ t, exec (.push b) s = .next t
      ∧ t.result.accepted = true ∧ t.result.data = .none ∧ t.result.events.length ≤ 1
      ∧ (t.outValid = true → t.result.events = [])
      ∧ (∀ ev ∈ t.result.events, ev.code ≠ .sessionEnd)
      ∧ t.sampleIndex = s.sampleIndex + 8 ∧ t.prevSample = b.getLsbD 0
      ∧ t.params = s.params ∧ t.input = s.input ∧ t.cfg = s.cfg ∧ t.sessionOpen = true

/-- 60_exceptions.md R250: no host command stops the core. From every state that meets the invariant, in the
reference semantics, a step on any host command word answers a next state that meets the invariant again. That the
reserved OP 111 is among these words is the model's reading (log 9): 30_encoding.md R92 and 43_host_ops.md R229 give the
hardware's answer to it, accepted 0 and no change, beside a model's refusal of a program that holds it. -/
def Obligations.HostCommandsNeverStopTheCore : Prop :=
  ∀ (s : State) (w : HostWord) (rest : List Input), Inv s → Reference s → s.input = .command w :: rest →
    ∃ t, step s = .next t ∧ Inv t ∧ Reference t ∧ t.input = rest

/-! ## Invariants and whole-machine rules -/

/-- 10_state.md R41: every step keeps the invariant, whatever is presented. -/
def Obligations.EveryStepKeepsTheInvariant : Prop :=
  ∀ s t : State, Inv s → step s = .next t → Inv t

/-- The invariant holds after hardware reset, at every accepted parameter record. -/
def Obligations.ResetMeetsTheInvariant : Prop :=
  Inv State.reset ∧ ∀ c : Config.Params, paramsValid c = true → boot c = .next (State.resetWith c)
    ∧ Inv (State.resetWith c)

/-- 10_state.md R33, 20_memory.md R74, 70_reset_and_hazards.md R293: only OPEN writes the configuration. -/
def Obligations.OnlyOpenWritesTheConfiguration : Prop :=
  ∀ (i : Instr) (s t : State), (∀ a, i ≠ .openSession a) → exec i s = .next t → t.cfg = s.cfg

/-- 43_host_ops.md R233: a session ends only by CLOSE, by OPEN, which starts a new one, or by hardware reset; no
sample step ends it. -/
def Obligations.OnlyCloseEndsASession : Prop :=
  (∀ (i : Instr) (s t : State), exec i s = .next t → s.sessionOpen = true → t.sessionOpen = false →
      ∃ a, i = .closeSession a)
    ∧ ∀ (s t : State), step s = .next t → s.sessionOpen = true → t.sessionOpen = false →
      (∃ rest, s.input = .reset :: rest)
        ∨ ∃ (w : HostWord) (rest : List Input) (a : Byte),
            s.input = .command w :: rest ∧ decodeHostCmd w = .closeSession a

/-- 43_host_ops.md R230: a pending unit is never overwritten; only POP takes it. -/
def Obligations.OnlyPopTakesAPendingUnit : Prop :=
  ∀ (i : Instr) (s t : State), (∀ a, i ≠ .pop a) → exec i s = .next t → s.outValid = true →
    t.outValid = true ∧ t.outUnit = s.outUnit

/-- 60_exceptions.md R263: OPEN and CLRERR clear the sticky flags; any other host operation sets exactly those of the
events it reports and leaves the rest; a step-key row does so for the events it adds. -/
def Obligations.StickyFlagsFollowTheEvents : Prop :=
  ∀ (i : Instr) (s t : State), exec i s = .next t →
    let cleared (x : State) : Prop :=
      x.errLength = false ∧ x.errFraming = false ∧ x.errIntegrity = false
    let follow (es : List Event) : Prop :=
      t.errLength = (s.errLength || hasEvent .lengthReject es)
        ∧ t.errFraming = (s.errFraming || hasEvent .framingError es)
        ∧ t.errIntegrity = (s.errIntegrity || hasEvent .integrityFail es)
    ((∃ a, i = .openSession a ∨ i = .clrerr a) → cleared t)
      ∧ ((∀ a, i ≠ .openSession a ∧ i ≠ .clrerr a) → isHostOp i = true → follow t.result.events)
      ∧ (isHostOp i = false → ∃ es, t.result.events = s.result.events ++ es ∧ es.length ≤ 1 ∧ follow es)

/-- 60_exceptions.md R251 to R256: every event in a result is one of LENGTH_REJECT with a length of 1 to 256,
FRAMING_ERROR with seven bits, INTEGRITY_FAIL with bytes that are not complements, SESSION_END. -/
def Obligations.EventsCarryTheirInfo : Prop :=
  ∀ (i : Instr) (s t : State), (∀ ev ∈ s.result.events, eventNamed ev) → exec i s = .next t →
    ∀ ev ∈ t.result.events, eventNamed ev

/-- 60_exceptions.md R270: the debug bit changes no transition, emission or event. Every instruction but OPEN and STATUS
does the same with the bit at either value; OPEN replaces the bit; STATUS shows it in bit 10 and nowhere else. -/
def Obligations.DebugChangesNothing : Prop :=
  ∀ (d : Bool) (s : State),
    (∀ i : Instr, (∀ a, i ≠ .openSession a ∧ i ≠ .status a) →
        exec i (setDebug d s) = mapNext (setDebug d) (exec i s))
      ∧ (∀ a, exec (.openSession a) (setDebug d s) = exec (.openSession a) s)
      ∧ (statusWord (setDebug d s)).getLsbD 10 = d
      ∧ ∀ n, n ≠ 10 → (statusWord (setDebug d s)).getLsbD n = (statusWord s).getLsbD n

/-- 42_character.md R199: in Character mode the test bit changes nothing, and LENGTH_REJECT and INTEGRITY_FAIL never
occur. -/
def Obligations.TestModeChangesNoCharacter : Prop :=
  ∀ (b : Byte) (x : Bool) (s : State), s.cfg.mode = true →
    exec (.push b) (setTest x s) = mapNext (setTest x) (exec (.push b) s)
      ∧ ∀ t, exec (.push b) s = .next t → ∀ ev ∈ t.result.events, ev.code = .framingError

/-! ## Whole frames -/

/-- 42_character.md R202: every 7-bit value sent as a character frame from an idle line at 0, with every instant inside
its cell, is emitted exactly, with no event. -/
def Obligations.EveryCharacterRoundTrips : Prop :=
  ∀ (s : State) (c : BitVec 7), Reference s → s.cfg.mode = true → s.fstate = .idle → s.prevSample = false →
    s.outValid = false → s.params.bitPeriod ≤ s.params.firstOffset →
    s.params.firstOffset < 2 * s.params.bitPeriod →
    ∃ t, runSamples (characterFrame s.params.bitPeriod c) s = .next t
      ∧ t.outValid = true ∧ t.outUnit = ⟨.char, 1, [c.setWidth 8]⟩
      ∧ t.fstate = .idle ∧ t.prevSample = false ∧ t.result = s.result
      ∧ t.sampleIndex = s.sampleIndex + 9 * s.params.bitPeriod

/-- 70_reset_and_hazards.md R302: at `P = 1` with FIRST_OFFSET 2 each bit of a character frame is read as its successor,
the last one as the stop cell and the stop bit as the sample after the frame. That such a build is run and not refused
is the model's reading (log 23). -/
def Obligations.DefaultOffsetAtPeriodOneReadsLate : Prop :=
  ∀ (s : State) (c : BitVec 7) (next : Bool), Reference s → s.cfg.mode = true → s.fstate = .idle →
    s.prevSample = false → s.outValid = false → s.params.bitPeriod = 1 → s.params.firstOffset = 2 →
    let late : Byte := (c <<< 1).setWidth 8
    ∃ t, runSamples (characterFrame 1 c ++ [next]) s = .next t ∧ t.fstate = .idle
      ∧ t.sampleIndex = s.sampleIndex + 10
      ∧ (next = false → t.outValid = true ∧ t.outUnit = ⟨.char, 1, [late]⟩ ∧ t.result = s.result)
      ∧ (next = true → t.outValid = false ∧ t.errFraming = true
        ∧ t.result = { s.result with events := s.result.events ++ [⟨.framingError, .data late⟩] })

/-- 41_packet.md R176: a payload sent as the line frame of 30_encoding.md R97, with any preamble, from an IDLE framer
whose last edge is a 1× interval before the lock edge, wherever in a session, under either polarity latch and with every
instant inside its cell (30_encoding.md R107), is decoded exactly, at the instant of its last bit and not before: outside
test mode as its PACKET; in test mode, where it has two bytes, as the TEST_LINE of the first if the second is its
complement and else as one INTEGRITY_FAIL. The rest of the line changes neither, and the framer is in IDLE. -/
def Obligations.EveryPacketRoundTrips : Prop :=
  ∀ (s : State) (lockGap syncGap : Nat) (preambleGaps : List Nat) (payload : List Byte),
    Reference s → s.cfg.mode = false → s.fstate = .idle → s.outValid = false →
    windowMatch s.params 1 ((s.sampleIndex : Int) + lockGap - s.lastEdgeIndex) = true →
    (∀ g ∈ preambleGaps, 1 ≤ g ∧ windowMatch s.params 1 g = true) →
    1 ≤ syncGap → windowMatch s.params 4 syncGap = true →
    s.params.bitPeriod ≤ s.params.firstOffset → s.params.firstOffset < 2 * s.params.bitPeriod →
    1 ≤ payload.length → payload.length ≤ s.params.maxLen → (s.cfg.test = true → payload.length = 2) →
    let gaps : List Nat := lockGap :: (preambleGaps ++ [syncGap])
    let syncLevel : Bool := levelAfter s.prevSample gaps
    let inv : Bool := match s.params.polarityLatch with | .asSample => syncLevel | .complement => !syncLevel
    let line : List Bool := packetLine s.params.bitPeriod s.prevSample gaps inv payload
    let last : Nat := gaps.sum + s.params.firstOffset + (8 * payload.length + 7) * s.params.bitPeriod
    let decoded (t : State) : Prop :=
      (s.cfg.test = false →
          t.outValid = true ∧ t.outUnit = ⟨.packet, payload.length, payload⟩ ∧ t.result = s.result)
        ∧ (∀ id check, s.cfg.test = true → payload = [id, check] → check = ~~~id →
          t.outValid = true ∧ t.outUnit = testLineUnit id ∧ t.result = s.result)
        ∧ (∀ id check, s.cfg.test = true → payload = [id, check] → check ≠ ~~~id →
          t.outValid = false ∧ t.errIntegrity = true
            ∧ t.result = { s.result with events := s.result.events ++ [⟨.integrityFail, .pair id check⟩] })
    (∃ t, runSamples (line.take last) s = .next t ∧ t.outValid = false ∧ t.result = s.result)
      ∧ (∃ t, runSamples (line.take (last + 1)) s = .next t ∧ decoded t ∧ t.fstate = .idle)
      ∧ (∃ t, runSamples line s = .next t ∧ decoded t ∧ t.fstate = .idle
          ∧ t.sampleIndex = s.sampleIndex + line.length)

/-- 42_character.md R203: a sequence without a rising edge leaves Character mode in IDLE and emits nothing, however
long it is. -/
def Obligations.NoRisingEdgeKeepsCharacterIdle : Prop :=
  ∀ (vs : List Bool) (s : State), s.params.indexWidth = none → s.cfg.mode = true → s.fstate = .idle →
    noRisingEdge s.prevSample vs = true →
    ∃ t, runSamples vs s = .next t ∧ t.fstate = .idle ∧ t.outValid = s.outValid ∧ t.outUnit = s.outUnit
      ∧ t.result = s.result ∧ t.sampleIndex = s.sampleIndex + vs.length

/-- 41_packet.md R175, last clause: a sequence with no edge in the 1× window keeps Packet mode in IDLE and emits
nothing, however long it is. -/
def Obligations.NoLockEdgeKeepsPacketIdle : Prop :=
  ∀ (vs : List Bool) (s : State), s.params.indexWidth = none → s.cfg.mode = false → s.fstate = .idle →
    noLockEdge s.params s.sampleIndex s.lastEdgeIndex s.prevSample vs = true →
    ∃ t, runSamples vs s = .next t ∧ t.fstate = .idle ∧ t.outValid = s.outValid ∧ t.outUnit = s.outUnit
      ∧ t.result = s.result ∧ t.sampleIndex = s.sampleIndex + vs.length

/-! ## Host programs -/

/-- 30_encoding.md R110: every PUSH of an expansion `PUSH b`, `POP` is accepted: from a ready state the program runs to
the end, takes every byte's 8 samples and ends ready. -/
def Obligations.PushPopExpansionIsAlwaysAccepted : Prop :=
  ∀ (bs : List Byte) (s : State), Inv s → Reference s → s.sessionOpen = true → s.outValid = false →
    ∃ t obs, runProgram (pushPop bs) s = .next (t, obs)
      ∧ t.sessionOpen = true ∧ t.outValid = false ∧ t.sampleIndex = s.sampleIndex + 8 * bs.length

/-- 30_encoding.md R109: a sample sequence is packed most significant bit first, and only if its length is a
multiple of 8. -/
def Obligations.StreamPacksEightSamplesAByte : Prop :=
  ∀ vs : List Bool,
    (∀ bs, packSamples vs = some bs → bs.flatMap samplesOfByte = vs)
      ∧ (packSamples vs = none ↔ vs.length % 8 ≠ 0)

/-- 43_host_ops.md R229, 30_encoding.md R108: the assembler makes only words of the seven operations, so an assembled
program always loads; a program that holds OP 111 is refused whole, when it is loaded and when it is run (log 9). -/
def Obligations.AssembledProgramsLoad : Prop :=
  (∀ (ls : List AsmLine) (ws : List HostWord) (s : State), assemble ls = .ok ws →
      loadProgram ws s = .next { s with input := ws.map .command } ∧ runProgram ws s = runWords ws s)
    ∧ ∀ (ws : List HostWord) (s : State) (w : HostWord), w ∈ ws → w.extractLsb' 8 3 = 0b111#3 →
      loadProgram ws s = .refused .reservedOperation ∧ runProgram ws s = .refused .reservedOperation
end

