-- ==== Sys2Proof/Laws/State.lean ====
section
/-! SUPPORT. What each update of the state does to each field, true by definition, so that no later proof
unfolds a record update. -/

namespace Sys2Proof.Machine

section

variable (s : State)

/-! ## `report` -/

@[simp] theorem report_params (ev : Event) : (report ev s).params = s.params := rfl
@[simp] theorem report_input (ev : Event) : (report ev s).input = s.input := rfl
@[simp] theorem report_result (ev : Event) :
    (report ev s).result = { s.result with events := s.result.events ++ [ev] } := rfl
@[simp] theorem report_sessionOpen (ev : Event) : (report ev s).sessionOpen = s.sessionOpen := rfl
@[simp] theorem report_cfg (ev : Event) : (report ev s).cfg = s.cfg := rfl
@[simp] theorem report_outValid (ev : Event) : (report ev s).outValid = s.outValid := rfl
@[simp] theorem report_outUnit (ev : Event) : (report ev s).outUnit = s.outUnit := rfl
@[simp] theorem report_errLength (ev : Event) :
    (report ev s).errLength = (s.errLength || ev.code == .lengthReject) := rfl
@[simp] theorem report_errFraming (ev : Event) :
    (report ev s).errFraming = (s.errFraming || ev.code == .framingError) := rfl
@[simp] theorem report_errIntegrity (ev : Event) :
    (report ev s).errIntegrity = (s.errIntegrity || ev.code == .integrityFail) := rfl
@[simp] theorem report_sampleIndex (ev : Event) : (report ev s).sampleIndex = s.sampleIndex := rfl
@[simp] theorem report_prevSample (ev : Event) : (report ev s).prevSample = s.prevSample := rfl
@[simp] theorem report_lastEdgeIndex (ev : Event) : (report ev s).lastEdgeIndex = s.lastEdgeIndex := rfl
@[simp] theorem report_fstate (ev : Event) : (report ev s).fstate = s.fstate := rfl
@[simp] theorem report_nextBit (ev : Event) : (report ev s).nextBit = s.nextBit := rfl
@[simp] theorem report_invert (ev : Event) : (report ev s).invert = s.invert := rfl
@[simp] theorem report_bitsReceived (ev : Event) : (report ev s).bitsReceived = s.bitsReceived := rfl
@[simp] theorem report_shift (ev : Event) : (report ev s).shift = s.shift := rfl
@[simp] theorem report_length (ev : Event) : (report ev s).length = s.length := rfl
@[simp] theorem report_payload (ev : Event) : (report ev s).payload = s.payload := rfl

/-! ## `clearErrors` -/

@[simp] theorem clearErrors_params : (clearErrors s).params = s.params := rfl
@[simp] theorem clearErrors_input : (clearErrors s).input = s.input := rfl
@[simp] theorem clearErrors_result : (clearErrors s).result = s.result := rfl
@[simp] theorem clearErrors_sessionOpen : (clearErrors s).sessionOpen = s.sessionOpen := rfl
@[simp] theorem clearErrors_cfg : (clearErrors s).cfg = s.cfg := rfl
@[simp] theorem clearErrors_outValid : (clearErrors s).outValid = s.outValid := rfl
@[simp] theorem clearErrors_outUnit : (clearErrors s).outUnit = s.outUnit := rfl
@[simp] theorem clearErrors_errLength : (clearErrors s).errLength = false := rfl
@[simp] theorem clearErrors_errFraming : (clearErrors s).errFraming = false := rfl
@[simp] theorem clearErrors_errIntegrity : (clearErrors s).errIntegrity = false := rfl
@[simp] theorem clearErrors_sampleIndex : (clearErrors s).sampleIndex = s.sampleIndex := rfl
@[simp] theorem clearErrors_prevSample : (clearErrors s).prevSample = s.prevSample := rfl
@[simp] theorem clearErrors_lastEdgeIndex : (clearErrors s).lastEdgeIndex = s.lastEdgeIndex := rfl
@[simp] theorem clearErrors_fstate : (clearErrors s).fstate = s.fstate := rfl
@[simp] theorem clearErrors_nextBit : (clearErrors s).nextBit = s.nextBit := rfl
@[simp] theorem clearErrors_invert : (clearErrors s).invert = s.invert := rfl
@[simp] theorem clearErrors_bitsReceived : (clearErrors s).bitsReceived = s.bitsReceived := rfl
@[simp] theorem clearErrors_shift : (clearErrors s).shift = s.shift := rfl
@[simp] theorem clearErrors_length : (clearErrors s).length = s.length := rfl
@[simp] theorem clearErrors_payload : (clearErrors s).payload = s.payload := rfl

/-! ## `frameClear` -/

@[simp] theorem frameClear_params : (frameClear s).params = s.params := rfl
@[simp] theorem frameClear_input : (frameClear s).input = s.input := rfl
@[simp] theorem frameClear_result : (frameClear s).result = s.result := rfl
@[simp] theorem frameClear_sessionOpen : (frameClear s).sessionOpen = s.sessionOpen := rfl
@[simp] theorem frameClear_cfg : (frameClear s).cfg = s.cfg := rfl
@[simp] theorem frameClear_outValid : (frameClear s).outValid = s.outValid := rfl
@[simp] theorem frameClear_outUnit : (frameClear s).outUnit = s.outUnit := rfl
@[simp] theorem frameClear_errLength : (frameClear s).errLength = s.errLength := rfl
@[simp] theorem frameClear_errFraming : (frameClear s).errFraming = s.errFraming := rfl
@[simp] theorem frameClear_errIntegrity : (frameClear s).errIntegrity = s.errIntegrity := rfl
@[simp] theorem frameClear_sampleIndex : (frameClear s).sampleIndex = s.sampleIndex := rfl
@[simp] theorem frameClear_prevSample : (frameClear s).prevSample = s.prevSample := rfl
@[simp] theorem frameClear_lastEdgeIndex : (frameClear s).lastEdgeIndex = s.lastEdgeIndex := rfl
@[simp] theorem frameClear_fstate : (frameClear s).fstate = s.fstate := rfl
@[simp] theorem frameClear_nextBit : (frameClear s).nextBit = s.nextBit := rfl
@[simp] theorem frameClear_invert : (frameClear s).invert = s.invert := rfl
@[simp] theorem frameClear_bitsReceived : (frameClear s).bitsReceived = 0 := rfl
@[simp] theorem frameClear_shift : (frameClear s).shift = 0 := rfl
@[simp] theorem frameClear_length : (frameClear s).length = 0 := rfl
@[simp] theorem frameClear_payload : (frameClear s).payload = [] := rfl

/-! ## `characterClear` -/

@[simp] theorem characterClear_params : (characterClear s).params = s.params := rfl
@[simp] theorem characterClear_input : (characterClear s).input = s.input := rfl
@[simp] theorem characterClear_result : (characterClear s).result = s.result := rfl
@[simp] theorem characterClear_sessionOpen : (characterClear s).sessionOpen = s.sessionOpen := rfl
@[simp] theorem characterClear_cfg : (characterClear s).cfg = s.cfg := rfl
@[simp] theorem characterClear_outValid : (characterClear s).outValid = s.outValid := rfl
@[simp] theorem characterClear_outUnit : (characterClear s).outUnit = s.outUnit := rfl
@[simp] theorem characterClear_errLength : (characterClear s).errLength = s.errLength := rfl
@[simp] theorem characterClear_errFraming : (characterClear s).errFraming = s.errFraming := rfl
@[simp] theorem characterClear_errIntegrity : (characterClear s).errIntegrity = s.errIntegrity := rfl
@[simp] theorem characterClear_sampleIndex : (characterClear s).sampleIndex = s.sampleIndex := rfl
@[simp] theorem characterClear_prevSample : (characterClear s).prevSample = s.prevSample := rfl
@[simp] theorem characterClear_lastEdgeIndex : (characterClear s).lastEdgeIndex = s.lastEdgeIndex := rfl
@[simp] theorem characterClear_fstate : (characterClear s).fstate = s.fstate := rfl
@[simp] theorem characterClear_nextBit : (characterClear s).nextBit = s.nextBit := rfl
@[simp] theorem characterClear_invert : (characterClear s).invert = s.invert := rfl
@[simp] theorem characterClear_bitsReceived : (characterClear s).bitsReceived = 0 := rfl
@[simp] theorem characterClear_shift : (characterClear s).shift = 0 := rfl
@[simp] theorem characterClear_length : (characterClear s).length = s.length := rfl
@[simp] theorem characterClear_payload : (characterClear s).payload = s.payload := rfl

/-! ## `goState` -/

@[simp] theorem goState_params (f : FState) : (goState f s).params = s.params := rfl
@[simp] theorem goState_input (f : FState) : (goState f s).input = s.input := rfl
@[simp] theorem goState_result (f : FState) : (goState f s).result = s.result := rfl
@[simp] theorem goState_sessionOpen (f : FState) : (goState f s).sessionOpen = s.sessionOpen := rfl
@[simp] theorem goState_cfg (f : FState) : (goState f s).cfg = s.cfg := rfl
@[simp] theorem goState_outValid (f : FState) : (goState f s).outValid = s.outValid := rfl
@[simp] theorem goState_outUnit (f : FState) : (goState f s).outUnit = s.outUnit := rfl
@[simp] theorem goState_errLength (f : FState) : (goState f s).errLength = s.errLength := rfl
@[simp] theorem goState_errFraming (f : FState) : (goState f s).errFraming = s.errFraming := rfl
@[simp] theorem goState_errIntegrity (f : FState) : (goState f s).errIntegrity = s.errIntegrity := rfl
@[simp] theorem goState_sampleIndex (f : FState) : (goState f s).sampleIndex = s.sampleIndex := rfl
@[simp] theorem goState_prevSample (f : FState) : (goState f s).prevSample = s.prevSample := rfl
@[simp] theorem goState_lastEdgeIndex (f : FState) : (goState f s).lastEdgeIndex = s.lastEdgeIndex := rfl
@[simp] theorem goState_fstate (f : FState) : (goState f s).fstate = f := rfl
@[simp] theorem goState_nextBit (f : FState) : (goState f s).nextBit = s.nextBit := rfl
@[simp] theorem goState_invert (f : FState) : (goState f s).invert = s.invert := rfl
@[simp] theorem goState_bitsReceived (f : FState) : (goState f s).bitsReceived = s.bitsReceived := rfl
@[simp] theorem goState_shift (f : FState) : (goState f s).shift = s.shift := rfl
@[simp] theorem goState_length (f : FState) : (goState f s).length = s.length := rfl
@[simp] theorem goState_payload (f : FState) : (goState f s).payload = s.payload := rfl

/-! ## `endPacketFrame` -/

@[simp] theorem endPacketFrame_params : (endPacketFrame s).params = s.params := rfl
@[simp] theorem endPacketFrame_input : (endPacketFrame s).input = s.input := rfl
@[simp] theorem endPacketFrame_result : (endPacketFrame s).result = s.result := rfl
@[simp] theorem endPacketFrame_sessionOpen : (endPacketFrame s).sessionOpen = s.sessionOpen := rfl
@[simp] theorem endPacketFrame_cfg : (endPacketFrame s).cfg = s.cfg := rfl
@[simp] theorem endPacketFrame_outValid : (endPacketFrame s).outValid = s.outValid := rfl
@[simp] theorem endPacketFrame_outUnit : (endPacketFrame s).outUnit = s.outUnit := rfl
@[simp] theorem endPacketFrame_errLength : (endPacketFrame s).errLength = s.errLength := rfl
@[simp] theorem endPacketFrame_errFraming : (endPacketFrame s).errFraming = s.errFraming := rfl
@[simp] theorem endPacketFrame_errIntegrity : (endPacketFrame s).errIntegrity = s.errIntegrity := rfl
@[simp] theorem endPacketFrame_sampleIndex : (endPacketFrame s).sampleIndex = s.sampleIndex := rfl
@[simp] theorem endPacketFrame_prevSample : (endPacketFrame s).prevSample = s.prevSample := rfl
@[simp] theorem endPacketFrame_lastEdgeIndex : (endPacketFrame s).lastEdgeIndex = s.lastEdgeIndex := rfl
@[simp] theorem endPacketFrame_fstate : (endPacketFrame s).fstate = .idle := rfl
@[simp] theorem endPacketFrame_nextBit : (endPacketFrame s).nextBit = s.nextBit := rfl
@[simp] theorem endPacketFrame_invert : (endPacketFrame s).invert = s.invert := rfl
@[simp] theorem endPacketFrame_bitsReceived : (endPacketFrame s).bitsReceived = 0 := rfl
@[simp] theorem endPacketFrame_shift : (endPacketFrame s).shift = 0 := rfl
@[simp] theorem endPacketFrame_length : (endPacketFrame s).length = 0 := rfl
@[simp] theorem endPacketFrame_payload : (endPacketFrame s).payload = [] := rfl

/-! ## `endCharacterFrame` -/

@[simp] theorem endCharacterFrame_params : (endCharacterFrame s).params = s.params := rfl
@[simp] theorem endCharacterFrame_input : (endCharacterFrame s).input = s.input := rfl
@[simp] theorem endCharacterFrame_result : (endCharacterFrame s).result = s.result := rfl
@[simp] theorem endCharacterFrame_sessionOpen : (endCharacterFrame s).sessionOpen = s.sessionOpen := rfl
@[simp] theorem endCharacterFrame_cfg : (endCharacterFrame s).cfg = s.cfg := rfl
@[simp] theorem endCharacterFrame_outValid : (endCharacterFrame s).outValid = s.outValid := rfl
@[simp] theorem endCharacterFrame_outUnit : (endCharacterFrame s).outUnit = s.outUnit := rfl
@[simp] theorem endCharacterFrame_errLength : (endCharacterFrame s).errLength = s.errLength := rfl
@[simp] theorem endCharacterFrame_errFraming : (endCharacterFrame s).errFraming = s.errFraming := rfl
@[simp] theorem endCharacterFrame_errIntegrity : (endCharacterFrame s).errIntegrity = s.errIntegrity := rfl
@[simp] theorem endCharacterFrame_sampleIndex : (endCharacterFrame s).sampleIndex = s.sampleIndex := rfl
@[simp] theorem endCharacterFrame_prevSample : (endCharacterFrame s).prevSample = s.prevSample := rfl
@[simp] theorem endCharacterFrame_lastEdgeIndex : (endCharacterFrame s).lastEdgeIndex = s.lastEdgeIndex := rfl
@[simp] theorem endCharacterFrame_fstate : (endCharacterFrame s).fstate = .idle := rfl
@[simp] theorem endCharacterFrame_nextBit : (endCharacterFrame s).nextBit = s.nextBit := rfl
@[simp] theorem endCharacterFrame_invert : (endCharacterFrame s).invert = s.invert := rfl
@[simp] theorem endCharacterFrame_bitsReceived : (endCharacterFrame s).bitsReceived = 0 := rfl
@[simp] theorem endCharacterFrame_shift : (endCharacterFrame s).shift = 0 := rfl
@[simp] theorem endCharacterFrame_length : (endCharacterFrame s).length = s.length := rfl
@[simp] theorem endCharacterFrame_payload : (endCharacterFrame s).payload = s.payload := rfl

/-! ## `advanceSchedule` -/

@[simp] theorem advanceSchedule_params : (advanceSchedule s).params = s.params := rfl
@[simp] theorem advanceSchedule_input : (advanceSchedule s).input = s.input := rfl
@[simp] theorem advanceSchedule_result : (advanceSchedule s).result = s.result := rfl
@[simp] theorem advanceSchedule_sessionOpen : (advanceSchedule s).sessionOpen = s.sessionOpen := rfl
@[simp] theorem advanceSchedule_cfg : (advanceSchedule s).cfg = s.cfg := rfl
@[simp] theorem advanceSchedule_outValid : (advanceSchedule s).outValid = s.outValid := rfl
@[simp] theorem advanceSchedule_outUnit : (advanceSchedule s).outUnit = s.outUnit := rfl
@[simp] theorem advanceSchedule_errLength : (advanceSchedule s).errLength = s.errLength := rfl
@[simp] theorem advanceSchedule_errFraming : (advanceSchedule s).errFraming = s.errFraming := rfl
@[simp] theorem advanceSchedule_errIntegrity : (advanceSchedule s).errIntegrity = s.errIntegrity := rfl
@[simp] theorem advanceSchedule_sampleIndex : (advanceSchedule s).sampleIndex = s.sampleIndex := rfl
@[simp] theorem advanceSchedule_prevSample : (advanceSchedule s).prevSample = s.prevSample := rfl
@[simp] theorem advanceSchedule_lastEdgeIndex : (advanceSchedule s).lastEdgeIndex = s.lastEdgeIndex := rfl
@[simp] theorem advanceSchedule_fstate : (advanceSchedule s).fstate = s.fstate := rfl
@[simp] theorem advanceSchedule_nextBit : (advanceSchedule s).nextBit = s.nextBit + s.params.bitPeriod := rfl
@[simp] theorem advanceSchedule_invert : (advanceSchedule s).invert = s.invert := rfl
@[simp] theorem advanceSchedule_bitsReceived : (advanceSchedule s).bitsReceived = s.bitsReceived := rfl
@[simp] theorem advanceSchedule_shift : (advanceSchedule s).shift = s.shift := rfl
@[simp] theorem advanceSchedule_length : (advanceSchedule s).length = s.length := rfl
@[simp] theorem advanceSchedule_payload : (advanceSchedule s).payload = s.payload := rfl

/-! ## `scheduleFirst` -/

@[simp] theorem scheduleFirst_params : (scheduleFirst s).params = s.params := rfl
@[simp] theorem scheduleFirst_input : (scheduleFirst s).input = s.input := rfl
@[simp] theorem scheduleFirst_result : (scheduleFirst s).result = s.result := rfl
@[simp] theorem scheduleFirst_sessionOpen : (scheduleFirst s).sessionOpen = s.sessionOpen := rfl
@[simp] theorem scheduleFirst_cfg : (scheduleFirst s).cfg = s.cfg := rfl
@[simp] theorem scheduleFirst_outValid : (scheduleFirst s).outValid = s.outValid := rfl
@[simp] theorem scheduleFirst_outUnit : (scheduleFirst s).outUnit = s.outUnit := rfl
@[simp] theorem scheduleFirst_errLength : (scheduleFirst s).errLength = s.errLength := rfl
@[simp] theorem scheduleFirst_errFraming : (scheduleFirst s).errFraming = s.errFraming := rfl
@[simp] theorem scheduleFirst_errIntegrity : (scheduleFirst s).errIntegrity = s.errIntegrity := rfl
@[simp] theorem scheduleFirst_sampleIndex : (scheduleFirst s).sampleIndex = s.sampleIndex := rfl
@[simp] theorem scheduleFirst_prevSample : (scheduleFirst s).prevSample = s.prevSample := rfl
@[simp] theorem scheduleFirst_lastEdgeIndex : (scheduleFirst s).lastEdgeIndex = s.lastEdgeIndex := rfl
@[simp] theorem scheduleFirst_fstate : (scheduleFirst s).fstate = s.fstate := rfl
@[simp] theorem scheduleFirst_nextBit :
    (scheduleFirst s).nextBit = s.sampleIndex + s.params.firstOffset := rfl
@[simp] theorem scheduleFirst_invert : (scheduleFirst s).invert = s.invert := rfl
@[simp] theorem scheduleFirst_bitsReceived : (scheduleFirst s).bitsReceived = s.bitsReceived := rfl
@[simp] theorem scheduleFirst_shift : (scheduleFirst s).shift = s.shift := rfl
@[simp] theorem scheduleFirst_length : (scheduleFirst s).length = s.length := rfl
@[simp] theorem scheduleFirst_payload : (scheduleFirst s).payload = s.payload := rfl

/-! ## `extractorUpdate` -/

@[simp] theorem extractorUpdate_params (v e : Bool) : (extractorUpdate v e s).params = s.params := rfl
@[simp] theorem extractorUpdate_input (v e : Bool) : (extractorUpdate v e s).input = s.input := rfl
@[simp] theorem extractorUpdate_result (v e : Bool) : (extractorUpdate v e s).result = s.result := rfl
@[simp] theorem extractorUpdate_sessionOpen (v e : Bool) :
    (extractorUpdate v e s).sessionOpen = s.sessionOpen := rfl
@[simp] theorem extractorUpdate_cfg (v e : Bool) : (extractorUpdate v e s).cfg = s.cfg := rfl
@[simp] theorem extractorUpdate_outValid (v e : Bool) : (extractorUpdate v e s).outValid = s.outValid := rfl
@[simp] theorem extractorUpdate_outUnit (v e : Bool) : (extractorUpdate v e s).outUnit = s.outUnit := rfl
@[simp] theorem extractorUpdate_errLength (v e : Bool) :
    (extractorUpdate v e s).errLength = s.errLength := rfl
@[simp] theorem extractorUpdate_errFraming (v e : Bool) :
    (extractorUpdate v e s).errFraming = s.errFraming := rfl
@[simp] theorem extractorUpdate_errIntegrity (v e : Bool) :
    (extractorUpdate v e s).errIntegrity = s.errIntegrity := rfl
@[simp] theorem extractorUpdate_sampleIndex (v e : Bool) :
    (extractorUpdate v e s).sampleIndex = s.sampleIndex + 1 := rfl
@[simp] theorem extractorUpdate_prevSample (v e : Bool) : (extractorUpdate v e s).prevSample = v := rfl
@[simp] theorem extractorUpdate_lastEdgeIndex (v e : Bool) :
    (extractorUpdate v e s).lastEdgeIndex = if e then (s.sampleIndex : Int) else s.lastEdgeIndex := rfl
@[simp] theorem extractorUpdate_fstate (v e : Bool) : (extractorUpdate v e s).fstate = s.fstate := rfl
@[simp] theorem extractorUpdate_nextBit (v e : Bool) : (extractorUpdate v e s).nextBit = s.nextBit := rfl
@[simp] theorem extractorUpdate_invert (v e : Bool) : (extractorUpdate v e s).invert = s.invert := rfl
@[simp] theorem extractorUpdate_bitsReceived (v e : Bool) :
    (extractorUpdate v e s).bitsReceived = s.bitsReceived := rfl
@[simp] theorem extractorUpdate_shift (v e : Bool) : (extractorUpdate v e s).shift = s.shift := rfl
@[simp] theorem extractorUpdate_length (v e : Bool) : (extractorUpdate v e s).length = s.length := rfl
@[simp] theorem extractorUpdate_payload (v e : Bool) : (extractorUpdate v e s).payload = s.payload := rfl

/-! ## `openSessionPart` -/

@[simp] theorem openSessionPart_params : (openSessionPart s).params = s.params := rfl
@[simp] theorem openSessionPart_input : (openSessionPart s).input = s.input := rfl
@[simp] theorem openSessionPart_result : (openSessionPart s).result = s.result := rfl
@[simp] theorem openSessionPart_sessionOpen : (openSessionPart s).sessionOpen = s.sessionOpen := rfl
@[simp] theorem openSessionPart_cfg : (openSessionPart s).cfg = s.cfg := rfl
@[simp] theorem openSessionPart_outValid : (openSessionPart s).outValid = s.outValid := rfl
@[simp] theorem openSessionPart_outUnit : (openSessionPart s).outUnit = s.outUnit := rfl
@[simp] theorem openSessionPart_errLength : (openSessionPart s).errLength = s.errLength := rfl
@[simp] theorem openSessionPart_errFraming : (openSessionPart s).errFraming = s.errFraming := rfl
@[simp] theorem openSessionPart_errIntegrity : (openSessionPart s).errIntegrity = s.errIntegrity := rfl
@[simp] theorem openSessionPart_sampleIndex : (openSessionPart s).sampleIndex = 0 := rfl
@[simp] theorem openSessionPart_prevSample : (openSessionPart s).prevSample = s.params.initPrevSample := rfl
@[simp] theorem openSessionPart_lastEdgeIndex :
    (openSessionPart s).lastEdgeIndex = s.params.initLastEdge := rfl
@[simp] theorem openSessionPart_fstate : (openSessionPart s).fstate = .idle := rfl
@[simp] theorem openSessionPart_nextBit : (openSessionPart s).nextBit = 0 := rfl
@[simp] theorem openSessionPart_invert : (openSessionPart s).invert = false := rfl
@[simp] theorem openSessionPart_bitsReceived : (openSessionPart s).bitsReceived = 0 := rfl
@[simp] theorem openSessionPart_shift : (openSessionPart s).shift = 0 := rfl
@[simp] theorem openSessionPart_length : (openSessionPart s).length = 0 := rfl
@[simp] theorem openSessionPart_payload : (openSessionPart s).payload = [] := rfl

/-! ## `returnResult` -/

@[simp] theorem returnResult_params (a : Bool) (es : List Event) (d : ResultData) :
    (returnResult a es d s).params = s.params := rfl
@[simp] theorem returnResult_input (a : Bool) (es : List Event) (d : ResultData) :
    (returnResult a es d s).input = s.input := rfl
@[simp] theorem returnResult_result (a : Bool) (es : List Event) (d : ResultData) :
    (returnResult a es d s).result = ⟨a, es, d⟩ := rfl
@[simp] theorem returnResult_sessionOpen (a : Bool) (es : List Event) (d : ResultData) :
    (returnResult a es d s).sessionOpen = s.sessionOpen := rfl
@[simp] theorem returnResult_cfg (a : Bool) (es : List Event) (d : ResultData) :
    (returnResult a es d s).cfg = s.cfg := rfl
@[simp] theorem returnResult_outValid (a : Bool) (es : List Event) (d : ResultData) :
    (returnResult a es d s).outValid = s.outValid := rfl
@[simp] theorem returnResult_outUnit (a : Bool) (es : List Event) (d : ResultData) :
    (returnResult a es d s).outUnit = s.outUnit := rfl
@[simp] theorem returnResult_errLength (a : Bool) (es : List Event) (d : ResultData) :
    (returnResult a es d s).errLength = s.errLength := rfl
@[simp] theorem returnResult_errFraming (a : Bool) (es : List Event) (d : ResultData) :
    (returnResult a es d s).errFraming = s.errFraming := rfl
@[simp] theorem returnResult_errIntegrity (a : Bool) (es : List Event) (d : ResultData) :
    (returnResult a es d s).errIntegrity = s.errIntegrity := rfl
@[simp] theorem returnResult_sampleIndex (a : Bool) (es : List Event) (d : ResultData) :
    (returnResult a es d s).sampleIndex = s.sampleIndex := rfl
@[simp] theorem returnResult_prevSample (a : Bool) (es : List Event) (d : ResultData) :
    (returnResult a es d s).prevSample = s.prevSample := rfl
@[simp] theorem returnResult_lastEdgeIndex (a : Bool) (es : List Event) (d : ResultData) :
    (returnResult a es d s).lastEdgeIndex = s.lastEdgeIndex := rfl
@[simp] theorem returnResult_fstate (a : Bool) (es : List Event) (d : ResultData) :
    (returnResult a es d s).fstate = s.fstate := rfl
@[simp] theorem returnResult_nextBit (a : Bool) (es : List Event) (d : ResultData) :
    (returnResult a es d s).nextBit = s.nextBit := rfl
@[simp] theorem returnResult_invert (a : Bool) (es : List Event) (d : ResultData) :
    (returnResult a es d s).invert = s.invert := rfl
@[simp] theorem returnResult_bitsReceived (a : Bool) (es : List Event) (d : ResultData) :
    (returnResult a es d s).bitsReceived = s.bitsReceived := rfl
@[simp] theorem returnResult_shift (a : Bool) (es : List Event) (d : ResultData) :
    (returnResult a es d s).shift = s.shift := rfl
@[simp] theorem returnResult_length (a : Bool) (es : List Event) (d : ResultData) :
    (returnResult a es d s).length = s.length := rfl
@[simp] theorem returnResult_payload (a : Bool) (es : List Event) (d : ResultData) :
    (returnResult a es d s).payload = s.payload := rfl

/-! ## `acceptBit` -/

@[simp] theorem acceptBit_params (b : Bool) : (acceptBit b s).params = s.params := rfl
@[simp] theorem acceptBit_input (b : Bool) : (acceptBit b s).input = s.input := rfl
@[simp] theorem acceptBit_result (b : Bool) : (acceptBit b s).result = s.result := rfl
@[simp] theorem acceptBit_sessionOpen (b : Bool) : (acceptBit b s).sessionOpen = s.sessionOpen := rfl
@[simp] theorem acceptBit_cfg (b : Bool) : (acceptBit b s).cfg = s.cfg := rfl
@[simp] theorem acceptBit_outValid (b : Bool) : (acceptBit b s).outValid = s.outValid := rfl
@[simp] theorem acceptBit_outUnit (b : Bool) : (acceptBit b s).outUnit = s.outUnit := rfl
@[simp] theorem acceptBit_errLength (b : Bool) : (acceptBit b s).errLength = s.errLength := rfl
@[simp] theorem acceptBit_errFraming (b : Bool) : (acceptBit b s).errFraming = s.errFraming := rfl
@[simp] theorem acceptBit_errIntegrity (b : Bool) : (acceptBit b s).errIntegrity = s.errIntegrity := rfl
@[simp] theorem acceptBit_sampleIndex (b : Bool) : (acceptBit b s).sampleIndex = s.sampleIndex := rfl
@[simp] theorem acceptBit_prevSample (b : Bool) : (acceptBit b s).prevSample = s.prevSample := rfl
@[simp] theorem acceptBit_lastEdgeIndex (b : Bool) : (acceptBit b s).lastEdgeIndex = s.lastEdgeIndex := rfl
@[simp] theorem acceptBit_fstate (b : Bool) : (acceptBit b s).fstate = s.fstate := rfl
@[simp] theorem acceptBit_nextBit (b : Bool) : (acceptBit b s).nextBit = s.nextBit := rfl
@[simp] theorem acceptBit_invert (b : Bool) : (acceptBit b s).invert = s.invert := rfl
@[simp] theorem acceptBit_bitsReceived (b : Bool) : (acceptBit b s).bitsReceived = s.bitsReceived + 1 := rfl
@[simp] theorem acceptBit_shift (b : Bool) : (acceptBit b s).shift = shiftIn s.shift b := rfl
@[simp] theorem acceptBit_length (b : Bool) : (acceptBit b s).length = s.length := rfl
@[simp] theorem acceptBit_payload (b : Bool) : (acceptBit b s).payload = s.payload := rfl

/-! ## `appendByte` -/

@[simp] theorem appendByte_params : (appendByte s).params = s.params := rfl
@[simp] theorem appendByte_input : (appendByte s).input = s.input := rfl
@[simp] theorem appendByte_result : (appendByte s).result = s.result := rfl
@[simp] theorem appendByte_sessionOpen : (appendByte s).sessionOpen = s.sessionOpen := rfl
@[simp] theorem appendByte_cfg : (appendByte s).cfg = s.cfg := rfl
@[simp] theorem appendByte_outValid : (appendByte s).outValid = s.outValid := rfl
@[simp] theorem appendByte_outUnit : (appendByte s).outUnit = s.outUnit := rfl
@[simp] theorem appendByte_errLength : (appendByte s).errLength = s.errLength := rfl
@[simp] theorem appendByte_errFraming : (appendByte s).errFraming = s.errFraming := rfl
@[simp] theorem appendByte_errIntegrity : (appendByte s).errIntegrity = s.errIntegrity := rfl
@[simp] theorem appendByte_sampleIndex : (appendByte s).sampleIndex = s.sampleIndex := rfl
@[simp] theorem appendByte_prevSample : (appendByte s).prevSample = s.prevSample := rfl
@[simp] theorem appendByte_lastEdgeIndex : (appendByte s).lastEdgeIndex = s.lastEdgeIndex := rfl
@[simp] theorem appendByte_fstate : (appendByte s).fstate = s.fstate := rfl
@[simp] theorem appendByte_nextBit : (appendByte s).nextBit = s.nextBit := rfl
@[simp] theorem appendByte_invert : (appendByte s).invert = s.invert := rfl
@[simp] theorem appendByte_bitsReceived : (appendByte s).bitsReceived = s.bitsReceived := rfl
@[simp] theorem appendByte_shift : (appendByte s).shift = 0 := rfl
@[simp] theorem appendByte_length : (appendByte s).length = s.length := rfl
@[simp] theorem appendByte_payload : (appendByte s).payload = s.payload ++ [s.shift] := rfl

/-! ## `setDebug` -/

@[simp] theorem setDebug_params (d : Bool) : (setDebug d s).params = s.params := rfl
@[simp] theorem setDebug_input (d : Bool) : (setDebug d s).input = s.input := rfl
@[simp] theorem setDebug_result (d : Bool) : (setDebug d s).result = s.result := rfl
@[simp] theorem setDebug_sessionOpen (d : Bool) : (setDebug d s).sessionOpen = s.sessionOpen := rfl
@[simp] theorem setDebug_cfg (d : Bool) : (setDebug d s).cfg = { s.cfg with debug := d } := rfl
@[simp] theorem setDebug_outValid (d : Bool) : (setDebug d s).outValid = s.outValid := rfl
@[simp] theorem setDebug_outUnit (d : Bool) : (setDebug d s).outUnit = s.outUnit := rfl
@[simp] theorem setDebug_errLength (d : Bool) : (setDebug d s).errLength = s.errLength := rfl
@[simp] theorem setDebug_errFraming (d : Bool) : (setDebug d s).errFraming = s.errFraming := rfl
@[simp] theorem setDebug_errIntegrity (d : Bool) : (setDebug d s).errIntegrity = s.errIntegrity := rfl
@[simp] theorem setDebug_sampleIndex (d : Bool) : (setDebug d s).sampleIndex = s.sampleIndex := rfl
@[simp] theorem setDebug_prevSample (d : Bool) : (setDebug d s).prevSample = s.prevSample := rfl
@[simp] theorem setDebug_lastEdgeIndex (d : Bool) : (setDebug d s).lastEdgeIndex = s.lastEdgeIndex := rfl
@[simp] theorem setDebug_fstate (d : Bool) : (setDebug d s).fstate = s.fstate := rfl
@[simp] theorem setDebug_nextBit (d : Bool) : (setDebug d s).nextBit = s.nextBit := rfl
@[simp] theorem setDebug_invert (d : Bool) : (setDebug d s).invert = s.invert := rfl
@[simp] theorem setDebug_bitsReceived (d : Bool) : (setDebug d s).bitsReceived = s.bitsReceived := rfl
@[simp] theorem setDebug_shift (d : Bool) : (setDebug d s).shift = s.shift := rfl
@[simp] theorem setDebug_length (d : Bool) : (setDebug d s).length = s.length := rfl
@[simp] theorem setDebug_payload (d : Bool) : (setDebug d s).payload = s.payload := rfl

/-! ## `setTest` -/

@[simp] theorem setTest_params (d : Bool) : (setTest d s).params = s.params := rfl
@[simp] theorem setTest_input (d : Bool) : (setTest d s).input = s.input := rfl
@[simp] theorem setTest_result (d : Bool) : (setTest d s).result = s.result := rfl
@[simp] theorem setTest_sessionOpen (d : Bool) : (setTest d s).sessionOpen = s.sessionOpen := rfl
@[simp] theorem setTest_cfg (d : Bool) : (setTest d s).cfg = { s.cfg with test := d } := rfl
@[simp] theorem setTest_outValid (d : Bool) : (setTest d s).outValid = s.outValid := rfl
@[simp] theorem setTest_outUnit (d : Bool) : (setTest d s).outUnit = s.outUnit := rfl
@[simp] theorem setTest_errLength (d : Bool) : (setTest d s).errLength = s.errLength := rfl
@[simp] theorem setTest_errFraming (d : Bool) : (setTest d s).errFraming = s.errFraming := rfl
@[simp] theorem setTest_errIntegrity (d : Bool) : (setTest d s).errIntegrity = s.errIntegrity := rfl
@[simp] theorem setTest_sampleIndex (d : Bool) : (setTest d s).sampleIndex = s.sampleIndex := rfl
@[simp] theorem setTest_prevSample (d : Bool) : (setTest d s).prevSample = s.prevSample := rfl
@[simp] theorem setTest_lastEdgeIndex (d : Bool) : (setTest d s).lastEdgeIndex = s.lastEdgeIndex := rfl
@[simp] theorem setTest_fstate (d : Bool) : (setTest d s).fstate = s.fstate := rfl
@[simp] theorem setTest_nextBit (d : Bool) : (setTest d s).nextBit = s.nextBit := rfl
@[simp] theorem setTest_invert (d : Bool) : (setTest d s).invert = s.invert := rfl
@[simp] theorem setTest_bitsReceived (d : Bool) : (setTest d s).bitsReceived = s.bitsReceived := rfl
@[simp] theorem setTest_shift (d : Bool) : (setTest d s).shift = s.shift := rfl
@[simp] theorem setTest_length (d : Bool) : (setTest d s).length = s.length := rfl
@[simp] theorem setTest_payload (d : Bool) : (setTest d s).payload = s.payload := rfl

/-! ## Hardware reset -/

@[simp] theorem hardwareReset_params : (hardwareReset s).params = s.params := rfl
@[simp] theorem hardwareReset_input : (hardwareReset s).input = s.input := rfl
theorem hardwareReset_eq : hardwareReset s = { State.resetWith s.params with input := s.input } := rfl

/-! ## Taking an event -/

@[simp] theorem takeEvent_eq (ev : Event) (recover : State → State) :
    takeEvent ev recover s = recover (report ev s) := rfl

end

end Sys2Proof.Machine
end

