-- ==== Sys2Proof/Laws/Decode.lean ====
section
/-! SUPPORT. What decoding reads from an assembled word, and the words of the opcode table. -/

namespace Sys2Proof

/-! ## Step keys -/

section

variable (m : Bool) (st : BitVec 2) (e v d l w1 w4 : Bool)

@[simp] theorem keyWord_mode : (keyWord m st e v d l w1 w4)[8] = m := by
  revert m st e v d l w1 w4; decide

@[simp] theorem keyWord_state1 : (keyWord m st e v d l w1 w4)[7] = st[1] := by
  revert m st e v d l w1 w4; decide

@[simp] theorem keyWord_state0 : (keyWord m st e v d l w1 w4)[6] = st[0] := by
  revert m st e v d l w1 w4; decide

@[simp] theorem keyWord_edge : (keyWord m st e v d l w1 w4)[5] = e := by
  revert m st e v d l w1 w4; decide

@[simp] theorem keyWord_value : (keyWord m st e v d l w1 w4)[4] = v := by
  revert m st e v d l w1 w4; decide

@[simp] theorem keyWord_due : (keyWord m st e v d l w1 w4)[3] = d := by
  revert m st e v d l w1 w4; decide

@[simp] theorem keyWord_stop : (keyWord m st e v d l w1 w4)[2] = l := by
  revert m st e v d l w1 w4; decide

@[simp] theorem keyWord_w1 : (keyWord m st e v d l w1 w4)[1] = w1 := by
  revert m st e v d l w1 w4; decide

@[simp] theorem keyWord_w4 : (keyWord m st e v d l w1 w4)[0] = w4 := by
  revert m st e v d l w1 w4; decide

/-- Decoding an assembled key is the choice of a row by its fields. -/
@[simp] theorem decodeStepKey_keyWord : decodeStepKey (keyWord m st e v d l w1 w4)
    = rowOfFields m st[1] st[0] e v d l w1 w4 := by
  simp [decodeStepKey]

end

/-! ## Host command words -/

/-- A bit of a host command word is a bit of ARG below bit 8 and of OP from there on. -/
theorem hostWord_getElem (op : BitVec 3) (a : Byte) (n : Nat) (h : n < 11) :
    (hostWord op a)[n]'h = if h8 : n < 8 then a[n] else op[n - 8] :=
  BitVec.getElem_append (x := op) (y := a) h

@[simp] theorem hostArg_hostWord (op : BitVec 3) (a : Byte) : hostArg (hostWord op a) = a := by
  ext n hn
  rw [hostArg, BitVec.getElem_setWidth, BitVec.getLsbD_eq_getElem (by omega), hostWord_getElem]
  simp [hn]

@[simp] theorem hostWord_op2 (op : BitVec 3) (a : Byte) : (hostWord op a)[10] = op[2] := by
  simp [hostWord_getElem]

@[simp] theorem hostWord_op1 (op : BitVec 3) (a : Byte) : (hostWord op a)[9] = op[1] := by
  simp [hostWord_getElem]

@[simp] theorem hostWord_op0 (op : BitVec 3) (a : Byte) : (hostWord op a)[8] = op[0] := by
  simp [hostWord_getElem]

end Sys2Proof
end

