-- ==== Sys2Proof/Laws/Ops.lean ====
section
/-! SUPPORT. What each shared operation can do, said once: later proofs cite these and do not unfold. -/

namespace Sys2Proof.Machine

/-! ## Sequencing -/

@[simp] theorem andThen_next (s : State) (f : State → Result) : andThen (.next s) f = f s := rfl
@[simp] theorem andThen_fault (x : Fault) (f : State → Result) : andThen (.fault x) f = .fault x := rfl
@[simp] theorem andThen_refused (x : Refusal) (f : State → Result) : andThen (.refused x) f = .refused x := rfl

theorem andThen_eq_next {r : Result} {f : State → Result} {t : State} :
    andThen r f = .next t ↔ ∃ u, r = .next u ∧ f u = .next t := by
  cases r <;> simp

@[simp] theorem mapNext_next (f : State → State) (s : State) : mapNext f (.next s) = .next (f s) := rfl
@[simp] theorem mapNext_fault (f : State → State) (x : Fault) : mapNext f (.fault x) = .fault x := rfl
@[simp] theorem mapNext_refused (f : State → State) (x : Refusal) : mapNext f (.refused x) = .refused x := rfl

/-- An operation that commutes with `f` on every state commutes with `f` after another. -/
theorem mapNext_andThen {f : State → State} {r : Result} {g : State → Result}
    (h : ∀ s, g (f s) = mapNext f (g s)) : andThen (mapNext f r) g = mapNext f (andThen r g) := by
  cases r <;> simp [h]

/-! ## The output register -/

theorem emit_empty {u : OutUnit} {s : State} (h : s.outValid = false) :
    emit u s = .next { s with outUnit := u, outValid := true } := by simp [emit, h]

theorem emit_full {u : OutUnit} {s : State} (h : s.outValid = true) : emit u s = .fault .outputOverrun := by
  simp [emit, h]

theorem emit_eq_next {u : OutUnit} {s t : State} :
    emit u s = .next t ↔ s.outValid = false ∧ t = { s with outUnit := u, outValid := true } := by
  cases ho : s.outValid
  · rw [emit_empty ho]
    exact ⟨fun h => ⟨rfl, (Host.Outcome.next.inj h).symm⟩, fun h => h.2 ▸ rfl⟩
  · simp [emit_full ho]

/-! ## The end of a sample step -/

theorem indexFits_iff {s : State} :
    indexFits s = true ↔ CountersFit s s.sampleIndex s.nextBit s.lastEdgeIndex := by
  unfold indexFits CountersFit
  split
  next h => simp [h]
  next w h =>
    simp only [h, Option.some.injEq, Bool.and_eq_true, decide_eq_true_eq, forall_eq', and_assoc]
    norm_cast

theorem indexFits_of_unbounded {s : State} (h : s.params.indexWidth = none) : indexFits s = true := by
  simp [indexFits, h]

theorem finishSample_fits {v e : Bool} {s : State} (h : indexFits (extractorUpdate v e s) = true) :
    finishSample v e s = .next (extractorUpdate v e s) := by simp [finishSample, h]

theorem finishSample_overflows {v e : Bool} {s : State} (h : indexFits (extractorUpdate v e s) = false) :
    finishSample v e s = .fault .indexOverflow := by simp [finishSample, h]

/-- In the reference semantics a sample step always ends. -/
theorem finishSample_unbounded {v e : Bool} {s : State} (h : s.params.indexWidth = none) :
    finishSample v e s = .next (extractorUpdate v e s) :=
  finishSample_fits (indexFits_of_unbounded h)

theorem finishSample_eq_next {v e : Bool} {s t : State} :
    finishSample v e s = .next t ↔ indexFits t = true ∧ t = extractorUpdate v e s := by
  unfold finishSample; split
  · simp only [Host.Outcome.next.injEq]
    constructor
    · rintro rfl; exact ⟨‹_›, rfl⟩
    · rintro ⟨-, rfl⟩; rfl
  · simp only [reduceCtorEq, false_iff, not_and]
    rintro h rfl; contradiction

/-- A sample step's end, as the whole state it leaves. -/
theorem finishSample_of_countersFit {v e : Bool} {s : State}
    (h : CountersFit s (s.sampleIndex + 1) s.nextBit (if e then (s.sampleIndex : Int) else s.lastEdgeIndex)) :
    finishSample v e s = .next
      { s with
        prevSample := v
        lastEdgeIndex := if e then (s.sampleIndex : Int) else s.lastEdgeIndex
        sampleIndex := s.sampleIndex + 1 } :=
  finishSample_fits (indexFits_iff.2 (by simpa [CountersFit] using h))

/-- The end of a processed instant, as the whole state it leaves, where the phase left the counters alone. -/
theorem finishInstant_of_countersFit {v e : Bool} {s u : State}
    (h : CountersFit s (s.sampleIndex + 1) (s.nextBit + s.params.bitPeriod)
      (if e then (s.sampleIndex : Int) else s.lastEdgeIndex))
    (hp : u.params = s.params) (hi : u.sampleIndex = s.sampleIndex) (hn : u.nextBit = s.nextBit)
    (hl : u.lastEdgeIndex = s.lastEdgeIndex) :
    finishSample v e (advanceSchedule u) = .next
      { u with
        nextBit := s.nextBit + s.params.bitPeriod
        prevSample := v
        lastEdgeIndex := if e then (s.sampleIndex : Int) else s.lastEdgeIndex
        sampleIndex := s.sampleIndex + 1 } := by
  rw [finishSample_of_countersFit]
  · simp [advanceSchedule, *]
  · simpa [CountersFit, *] using h

/-! ## Operands -/

@[simp] theorem lenBits_eq : Config.lenBits = 8 := rfl
@[simp] theorem dataBits_eq : Config.dataBits = 7 := rfl
@[simp] theorem testLen_eq : Config.testLen = 2 := rfl

theorem shiftIn_eq (r : Byte) (b : Bool) : shiftIn r b = (r <<< 1) ||| (if b then 1#8 else 0#8) := by
  cases b <;> rfl

/-- The accumulator as a number: one more bit on the right, bit 7 lost. -/
theorem shiftIn_toNat (r : Byte) (b : Bool) : (shiftIn r b).toNat = (2 * r.toNat + b.toNat) % 256 := by
  revert r b; decide

/-- An accumulator of `n` bits has `n + 1` bits after one more. -/
theorem shiftIn_toNat_lt {r : Byte} {n : Nat} (b : Bool) (h : r.toNat < 2 ^ n) :
    (shiftIn r b).toNat < 2 ^ (n + 1) := by
  rw [shiftIn_toNat, pow_succ]
  have := Nat.mod_le (2 * r.toNat + b.toNat) 256
  cases b <;> simp at * <;> omega

/-- The deviation below a bound, as signed bounds. -/
theorem windowDev_lt {c : Config.Params} {k : Nat} {d : Int} {n : Nat} :
    windowDev c k d < n ↔
      -(n : Int) < c.tolDen * (d - k * c.bitPeriod) ∧ (c.tolDen * (d - k * c.bitPeriod) : Int) < n := by
  unfold windowDev
  generalize (c.tolDen * (d - k * c.bitPeriod) : Int) = x
  omega

/-- The deviation within a bound, as signed bounds. -/
theorem windowDev_le {c : Config.Params} {k : Nat} {d : Int} {n : Nat} :
    windowDev c k d ≤ n ↔
      -(n : Int) ≤ c.tolDen * (d - k * c.bitPeriod) ∧ (c.tolDen * (d - k * c.bitPeriod) : Int) ≤ n := by
  unfold windowDev
  generalize (c.tolDen * (d - k * c.bitPeriod) : Int) = x
  omega

theorem complement_eq (id : Byte) : id ^^^ 0xFF#8 = ~~~id := by revert id; decide

theorem low7_eq (b : Byte) : low7 b = b &&& 0x7F#8 := rfl

@[simp] theorem FState.code_idle : FState.code .idle = 0b00#2 := rfl
@[simp] theorem FState.code_preamble : FState.code .preamble = 0b01#2 := rfl
@[simp] theorem FState.code_receive : FState.code .receive = 0b10#2 := rfl
@[simp] theorem FState.code_code11 : FState.code .code11 = 0b11#2 := rfl

theorem edgeOf_iff {v : Bool} {s : State} : edgeOf v s = true ↔ v ≠ s.prevSample := by simp [edgeOf]

theorem edgeOf_of_window {k : Nat} {v : Bool} {s : State} (h : windowOf k v s = true) : edgeOf v s = true := by
  simp_all [windowOf]

theorem dueOf_receive {s : State} (h : s.fstate = .receive) : dueOf s = (s.sampleIndex == s.nextBit) := by
  simp [dueOf, h]

/-! ## `sample_step`, state by state: the rows of 30_encoding.md R96 -/

theorem sampleStep_eq (v : Bool) (s : State) : sampleStep v s
    = performRow (rowOfFields s.cfg.mode s.fstate.code[1] s.fstate.code[0] (edgeOf v s) v (dueOf s)
        (stopOf s) (windowOf 1 v s) (windowOf 4 v s)) s := by
  simp [sampleStep, assembleKey]

theorem sampleStep_packet_idle {v : Bool} {s : State} (hm : s.cfg.mode = false) (hf : s.fstate = .idle) :
    sampleStep v s
      = finishSample v (edgeOf v s) (if windowOf 1 v s then goState .preamble s else s) := by
  rw [sampleStep_eq]
  cases he : edgeOf v s <;> cases hw : windowOf 1 v s <;>
    simp_all [rowOfFields, performRow, execPIdleQuiet, execPIdleEdgeSync1, execPIdleEdgeNoise, windowOf]

theorem sampleStep_packet_preamble {v : Bool} {s : State} (hm : s.cfg.mode = false)
    (hf : s.fstate = .preamble) :
    sampleStep v s =
      if edgeOf v s then
        (if windowOf 4 v s then execPPreEdgeStart v s
         else if windowOf 1 v s then finishSample v true s else finishSample v true (goState .idle s))
      else finishSample v false s := by
  rw [sampleStep_eq]
  cases he : edgeOf v s <;> cases hw : windowOf 1 v s <;> cases hw4 : windowOf 4 v s <;>
    simp_all [rowOfFields, performRow, execPPreQuiet, execPPreEdgeExtend, execPPreEdgeLost, windowOf]

theorem sampleStep_packet_receive {v : Bool} {s : State} (hm : s.cfg.mode = false)
    (hf : s.fstate = .receive) :
    sampleStep v s =
      if s.sampleIndex = s.nextBit then execPRxBit (edgeOf v s) v s else finishSample v (edgeOf v s) s := by
  rw [sampleStep_eq]
  by_cases hd : s.sampleIndex = s.nextBit <;>
    simp [rowOfFields, performRow, execPRxWait, dueOf, hm, hf, hd]

theorem sampleStep_character_idle {v : Bool} {s : State} (hm : s.cfg.mode = true) (hf : s.fstate = .idle) :
    sampleStep v s =
      if edgeOf v s && v then execCIdleRise s else finishSample v (edgeOf v s) s := by
  rw [sampleStep_eq]
  cases he : edgeOf v s <;> cases v <;>
    simp_all [rowOfFields, performRow, execCIdleQuiet, execCIdleFall]

theorem sampleStep_character_receive {v : Bool} {s : State} (hm : s.cfg.mode = true)
    (hf : s.fstate = .receive) :
    sampleStep v s =
      if s.sampleIndex = s.nextBit then
        (if s.bitsReceived = 7 then
          (if v then execCRxStopErr (edgeOf v s) s else execCRxStopOk (edgeOf v s) s)
         else execCRxData (edgeOf v s) v s)
      else finishSample v (edgeOf v s) s := by
  rw [sampleStep_eq]
  by_cases hd : s.sampleIndex = s.nextBit <;> by_cases hb : s.bitsReceived = 7 <;> cases v <;>
    simp [rowOfFields, performRow, execCRxWait, dueOf, stopOf, Config.dataBits, hm, hf, hd, hb]

theorem sampleStep_character_preamble {v : Bool} {s : State} (hm : s.cfg.mode = true)
    (hf : s.fstate = .preamble) : sampleStep v s = .fault .unreachableFramingState := by
  rw [sampleStep_eq]
  simp [rowOfFields, performRow, execStepkeyReservedCharPre, hm, hf]

theorem sampleStep_code11 {v : Bool} {s : State} (hf : s.fstate = .code11) :
    sampleStep v s = .fault .unreachableFramingState := by
  rw [sampleStep_eq]
  cases hm : s.cfg.mode <;> simp [rowOfFields, performRow, execStepkeyReserved, hf]

/-! ## Pieces of P_RX_BIT -/

theorem lengthRejected_iff {l : Nat} {s : State} :
    lengthRejected l s = true ↔ s.params.maxLen < l ∨ (s.cfg.test = true ∧ l ≠ 2) := by
  simp only [lengthRejected, Bool.or_eq_true, Bool.and_eq_true, decide_eq_true_eq]
  exact Iff.rfl

theorem lengthRejected_eq_false {l : Nat} {s : State} :
    lengthRejected l s = false ↔ ¬ (s.params.maxLen < l ∨ (s.cfg.test = true ∧ l ≠ 2)) := by
  rw [← lengthRejected_iff, Bool.not_eq_true]

/-- The length phase changes nothing before the 8th bit. -/
theorem lengthPhase_early {s : State} (h : s.bitsReceived ≠ 8) : lengthPhase s = s := by
  simp [lengthPhase, Config.lenBits, h]

theorem lengthPhase_rejects {s : State} (h : s.bitsReceived = 8)
    (hr : lengthRejected (decodedLength s.shift) s = true) :
    lengthPhase s = endPacketFrame (report ⟨.lengthReject, .length (decodedLength s.shift)⟩ s) := by
  simp [lengthPhase, Config.lenBits, h, hr]

theorem lengthPhase_accepts {s : State} (h : s.bitsReceived = 8)
    (hr : lengthRejected (decodedLength s.shift) s = false) :
    lengthPhase s = { s with length := decodedLength s.shift, shift := 0 } := by
  simp [lengthPhase, Config.lenBits, h, hr]

theorem framePhase_length {s : State} (h : s.bitsReceived ≤ 8) : framePhase s = .next (lengthPhase s) :=
  if_pos h

theorem framePhase_payload {s : State} (h : 8 < s.bitsReceived) : framePhase s = payloadPhase s :=
  if_neg (Nat.not_le.2 h)

theorem payloadPhase_bit {s : State} (h : (s.bitsReceived - 8) % 8 ≠ 0) : payloadPhase s = .next s := if_neg h

theorem payloadPhase_byte {s : State} (h : (s.bitsReceived - 8) % 8 = 0)
    (hl : s.payload.length + 1 ≠ s.length) : payloadPhase s = .next (appendByte s) :=
  (if_pos h).trans (if_neg (by simpa using hl))

theorem payloadPhase_complete {s : State} (h : (s.bitsReceived - 8) % 8 = 0)
    (hl : s.payload.length + 1 = s.length) :
    payloadPhase s = andThen (completeFrame (appendByte s)) fun t => .next (endPacketFrame t) :=
  (if_pos h).trans (if_pos (by simpa using hl))

theorem completeFrame_normal {s : State} (ht : s.cfg.test = false) :
    completeFrame s = emit (packetUnit s.payload) s := by simp [completeFrame, ht]

theorem completeFrame_test {s : State} {id check : Byte} (ht : s.cfg.test = true)
    (hp : s.payload = [id, check]) :
    completeFrame s = if check = ~~~id then emit (testLineUnit id) s
      else .next (report ⟨.integrityFail, .pair id check⟩ s) := by
  simp [completeFrame, ht, hp, complement_eq]

/-- Everything completion can do when it answers a next state. -/
theorem completeFrame_next {s t : State} (h : completeFrame s = .next t) :
    (s.cfg.test = false ∧ s.outValid = false
        ∧ t = { s with outUnit := packetUnit s.payload, outValid := true })
      ∨ (∃ id check, s.cfg.test = true ∧ s.payload = [id, check] ∧ check = id ^^^ 0xFF#8
        ∧ s.outValid = false ∧ t = { s with outUnit := testLineUnit id, outValid := true })
      ∨ (∃ id check, s.cfg.test = true ∧ s.payload = [id, check] ∧ check ≠ id ^^^ 0xFF#8
        ∧ t = report ⟨.integrityFail, .pair id check⟩ s) := by
  unfold completeFrame at h
  split at h
  next ht =>
    split at h
    next id check hp =>
      split at h
      next hc =>
        obtain ⟨ho, rfl⟩ := emit_eq_next.1 h
        exact .inr (.inl ⟨id, check, ht, hp, hc, ho, rfl⟩)
      next hc => exact .inr (.inr ⟨id, check, ht, hp, hc, by simpa using h.symm⟩)
    next => cases h
  next ht =>
    obtain ⟨ho, rfl⟩ := emit_eq_next.1 h
    exact .inl ⟨by simpa using ht, ho, rfl⟩

/-- Everything the payload phase can do when it answers a next state. -/
theorem payloadPhase_next {s t : State} (h : payloadPhase s = .next t) :
    ((s.bitsReceived - 8) % 8 ≠ 0 ∧ t = s)
      ∨ ((s.bitsReceived - 8) % 8 = 0 ∧ s.payload.length + 1 ≠ s.length ∧ t = appendByte s)
      ∨ ((s.bitsReceived - 8) % 8 = 0 ∧ s.payload.length + 1 = s.length
        ∧ ∃ u, completeFrame (appendByte s) = .next u ∧ t = endPacketFrame u) := by
  unfold payloadPhase at h
  split at h
  next h8 =>
    split at h
    next hl =>
      obtain ⟨u, hu, ht⟩ := andThen_eq_next.1 h
      exact .inr (.inr ⟨h8, by simpa using hl, u, hu, by simpa using ht.symm⟩)
    next hl => exact .inr (.inl ⟨h8, by simpa using hl, by simpa using h.symm⟩)
  next h8 => exact .inl ⟨h8, by simpa using h.symm⟩

/-- Everything P_RX_BIT can do when it answers a next state: the phase of the accepted bit, the schedule
advance, the extractor update. -/
theorem execPRxBit_next {e v : Bool} {s t : State} (h : execPRxBit e v s = .next t) :
    ∃ u, framePhase (acceptBit (effectiveBit v s) s) = .next u
      ∧ indexFits t = true ∧ t = extractorUpdate v e (advanceSchedule u) := by
  obtain ⟨u, hu, ht⟩ := andThen_eq_next.1 h
  exact ⟨u, hu, finishSample_eq_next.1 ht⟩

/-! ## Sequences of samples -/

@[simp] theorem runSamples_nil (s : State) : runSamples [] s = .next s := rfl

theorem runSamples_cons (v : Bool) (vs : List Bool) (s : State) :
    runSamples (v :: vs) s = andThen (sampleStep v s) (runSamples vs) := rfl

theorem runSamples_append (us vs : List Bool) (s : State) :
    runSamples (us ++ vs) s = andThen (runSamples us s) (runSamples vs) := by
  induction us generalizing s with
  | nil => rfl
  | cons v us ih =>
    simp only [List.cons_append, runSamples_cons]
    cases sampleStep v s <;> simp [ih]

/-- A property every sample step keeps holds after any sequence of samples. -/
theorem runSamples_keeps {P : State → Prop} (h : ∀ v s t, P s → sampleStep v s = .next t → P t)
    {vs : List Bool} {s t : State} (hs : P s) (hr : runSamples vs s = .next t) : P t := by
  induction vs generalizing s with
  | nil =>
    obtain rfl : s = t := by simpa using hr
    exact hs
  | cons v vs ih =>
    obtain ⟨u, hu, hr⟩ := andThen_eq_next.1 hr
    exact ih (h v s u hs hu) hr

end Sys2Proof.Machine
end

