-- ==== Sys2Proof/Laws/PerInstr.lean ====
section
/-! SUPPORT. Statements made for every instruction, one lemma per constructor. -/

namespace Sys2Proof.Laws.EncodesItsRow

/-- The word of an instruction is in its format and has the fixed bits of its row of spec/opcode_table.json. -/
def Statement (i : Instr) : Prop := (tableRow i).matches (encode i) = true

theorem nop (arg : Byte) : Statement (.nop arg) := by
  revert arg; unfold Statement; decide

theorem openSession (cfg : Byte) : Statement (.openSession cfg) := by
  revert cfg; unfold Statement; decide

theorem closeSession (arg : Byte) : Statement (.closeSession arg) := by
  revert arg; unfold Statement; decide

theorem push (b : Byte) : Statement (.push b) := by
  revert b; unfold Statement; decide

theorem pop (arg : Byte) : Statement (.pop arg) := by
  revert arg; unfold Statement; decide

theorem status (arg : Byte) : Statement (.status arg) := by
  revert arg; unfold Statement; decide

theorem clrerr (arg : Byte) : Statement (.clrerr arg) := by
  revert arg; unfold Statement; decide

theorem reserved111 (arg : Byte) : Statement (.reserved111 arg) := by
  revert arg; unfold Statement; decide

theorem pIdleQuiet (v d l w1 w4 : Bool) : Statement (.pIdleQuiet v d l w1 w4) := by
  revert v d l w1 w4; unfold Statement; decide

theorem pIdleEdgeSync1 (v d l w4 : Bool) : Statement (.pIdleEdgeSync1 v d l w4) := by
  revert v d l w4; unfold Statement; decide

theorem pIdleEdgeNoise (v d l w4 : Bool) : Statement (.pIdleEdgeNoise v d l w4) := by
  revert v d l w4; unfold Statement; decide

theorem pPreQuiet (v d l w1 w4 : Bool) : Statement (.pPreQuiet v d l w1 w4) := by
  revert v d l w1 w4; unfold Statement; decide

theorem pPreEdgeStart (v d l w1 : Bool) : Statement (.pPreEdgeStart v d l w1) := by
  revert v d l w1; unfold Statement; decide

theorem pPreEdgeExtend (v d l : Bool) : Statement (.pPreEdgeExtend v d l) := by
  revert v d l; unfold Statement; decide

theorem pPreEdgeLost (v d l : Bool) : Statement (.pPreEdgeLost v d l) := by
  revert v d l; unfold Statement; decide

theorem pRxWait (e v l w1 w4 : Bool) : Statement (.pRxWait e v l w1 w4) := by
  revert e v l w1 w4; unfold Statement; decide

theorem pRxBit (e v l w1 w4 : Bool) : Statement (.pRxBit e v l w1 w4) := by
  revert e v l w1 w4; unfold Statement; decide

theorem cIdleQuiet (v d l w1 w4 : Bool) : Statement (.cIdleQuiet v d l w1 w4) := by
  revert v d l w1 w4; unfold Statement; decide

theorem cIdleRise (d l w1 w4 : Bool) : Statement (.cIdleRise d l w1 w4) := by
  revert d l w1 w4; unfold Statement; decide

theorem cIdleFall (d l w1 w4 : Bool) : Statement (.cIdleFall d l w1 w4) := by
  revert d l w1 w4; unfold Statement; decide

theorem cRxWait (e v l w1 w4 : Bool) : Statement (.cRxWait e v l w1 w4) := by
  revert e v l w1 w4; unfold Statement; decide

theorem cRxData (e v w1 w4 : Bool) : Statement (.cRxData e v w1 w4) := by
  revert e v w1 w4; unfold Statement; decide

theorem cRxStopOk (e w1 w4 : Bool) : Statement (.cRxStopOk e w1 w4) := by
  revert e w1 w4; unfold Statement; decide

theorem cRxStopErr (e w1 w4 : Bool) : Statement (.cRxStopErr e w1 w4) := by
  revert e w1 w4; unfold Statement; decide

theorem stepkeyReserved (m e v d l w1 w4 : Bool) : Statement (.stepkeyReserved m e v d l w1 w4) := by
  revert m e v d l w1 w4; unfold Statement; decide

theorem stepkeyReservedCharPre (e v d l w1 w4 : Bool) : Statement (.stepkeyReservedCharPre e v d l w1 w4) := by
  revert e v d l w1 w4; unfold Statement; decide

end Sys2Proof.Laws.EncodesItsRow
end

