-- ==== Sys2Proof/Laws/SampleStep.lean ====
section
/-! SUPPORT. Everything a sample step can do, said once: the effect of the one row it performs, before the
extractor update. -/

namespace Sys2Proof.Machine

/-- What an accepted bit makes of the frame (41_packet.md R159 to R168): `s` is the state after the bit is
accepted. -/
inductive BitEffect (s : State) : State → Prop where
  /-- a length bit before the 8th -/
  | lengthBit (hb : s.bitsReceived < 8) : BitEffect s s
  /-- the 8th bit, the length rejected -/
  | rejected (hb : s.bitsReceived = 8) (hr : lengthRejected (decodedLength s.shift) s = true) :
      BitEffect s (endPacketFrame (report ⟨.lengthReject, .length (decodedLength s.shift)⟩ s))
  /-- the 8th bit, the length stored -/
  | accepted (hb : s.bitsReceived = 8) (hr : lengthRejected (decodedLength s.shift) s = false) :
      BitEffect s { s with length := decodedLength s.shift, shift := 0 }
  /-- a payload bit that completes no byte -/
  | payloadBit (hb : 8 < s.bitsReceived) (h8 : (s.bitsReceived - 8) % 8 ≠ 0) : BitEffect s s
  /-- a payload bit that completes a byte and no frame -/
  | payloadByte (hb : 8 < s.bitsReceived) (h8 : (s.bitsReceived - 8) % 8 = 0)
      (hl : s.payload.length + 1 ≠ s.length) : BitEffect s (appendByte s)
  /-- the last bit of a frame outside test mode -/
  | packet (hb : 8 < s.bitsReceived) (h8 : (s.bitsReceived - 8) % 8 = 0)
      (hl : s.payload.length + 1 = s.length) (ht : s.cfg.test = false) (ho : s.outValid = false) :
      BitEffect s (endPacketFrame
        { appendByte s with outUnit := packetUnit (s.payload ++ [s.shift]), outValid := true })
  /-- the last bit of a test frame whose bytes are complements -/
  | testLine (id : Byte) (hb : 8 < s.bitsReceived) (h8 : (s.bitsReceived - 8) % 8 = 0)
      (hl : s.payload.length + 1 = s.length) (ht : s.cfg.test = true) (hp : s.payload = [id])
      (hc : s.shift = id ^^^ 0xFF#8) (ho : s.outValid = false) :
      BitEffect s (endPacketFrame { appendByte s with outUnit := testLineUnit id, outValid := true })
  /-- the last bit of a test frame whose bytes are not -/
  | integrityFail (id : Byte) (hb : 8 < s.bitsReceived) (h8 : (s.bitsReceived - 8) % 8 = 0)
      (hl : s.payload.length + 1 = s.length) (ht : s.cfg.test = true) (hp : s.payload = [id])
      (hc : s.shift ≠ id ^^^ 0xFF#8) :
      BitEffect s (endPacketFrame (report ⟨.integrityFail, .pair id s.shift⟩ (appendByte s)))

/-- The length and payload phases do one of these. -/
theorem framePhase_next {s t : State} (h : framePhase s = .next t) : BitEffect s t := by
  by_cases hb : s.bitsReceived ≤ 8
  · rw [framePhase_length hb] at h
    cases h
    by_cases h8 : s.bitsReceived = 8
    · cases hr : lengthRejected (decodedLength s.shift) s
      · rw [lengthPhase_accepts h8 hr]; exact .accepted h8 hr
      · rw [lengthPhase_rejects h8 hr]; exact .rejected h8 hr
    · rw [lengthPhase_early h8]; exact .lengthBit (by omega)
  · rw [framePhase_payload (by omega)] at h
    have hb : 8 < s.bitsReceived := by omega
    obtain ⟨h8, rfl⟩ | ⟨h8, hl, rfl⟩ | ⟨h8, hl, u, hu, rfl⟩ := payloadPhase_next h
    · exact .payloadBit hb h8
    · exact .payloadByte hb h8 hl
    · have one {id check : Byte} (hp : s.payload ++ [s.shift] = [id, check]) :
          s.payload = [id] ∧ s.shift = check := by
        have h2 : s.payload ++ [s.shift] = [id] ++ [check] := hp
        have := List.append_inj' h2 rfl
        exact ⟨this.1, List.cons.inj this.2 |>.1⟩
      obtain ⟨ht, ho, rfl⟩ | ⟨id, check, ht, hp', hc, ho, rfl⟩ | ⟨id, check, ht, hp', hc, rfl⟩ :=
        completeFrame_next hu
      · exact .packet hb h8 hl ht ho
      · obtain ⟨hp, rfl⟩ := one hp'
        exact .testLine id hb h8 hl ht hp hc ho
      · obtain ⟨hp, rfl⟩ := one hp'
        exact .integrityFail id hb h8 hl ht hp hc

/-- The effect of the row a sample `v` performs in state `s`, before the extractor update. -/
inductive SampleEffect (v : Bool) (s : State) : State → Prop where
  /-- P_IDLE_QUIET and P_IDLE_EDGE_NOISE -/
  | packetIdle (hm : s.cfg.mode = false) (hf : s.fstate = .idle) (hw : windowOf 1 v s = false) :
      SampleEffect v s s
  /-- P_IDLE_EDGE_SYNC1 -/
  | lock (hm : s.cfg.mode = false) (hf : s.fstate = .idle) (hw : windowOf 1 v s = true) :
      SampleEffect v s (goState .preamble s)
  /-- P_PRE_QUIET -/
  | preambleQuiet (hm : s.cfg.mode = false) (hf : s.fstate = .preamble) (he : edgeOf v s = false) :
      SampleEffect v s s
  /-- P_PRE_EDGE_START -/
  | sync (hm : s.cfg.mode = false) (hf : s.fstate = .preamble) (hw : windowOf 4 v s = true) :
      SampleEffect v s
        (goState .receive (frameClear (scheduleFirst { s with invert := latchedPolarity v s })))
  /-- P_PRE_EDGE_EXTEND -/
  | extend (hm : s.cfg.mode = false) (hf : s.fstate = .preamble) (hw : windowOf 4 v s = false)
      (hw1 : windowOf 1 v s = true) : SampleEffect v s s
  /-- P_PRE_EDGE_LOST -/
  | lost (hm : s.cfg.mode = false) (hf : s.fstate = .preamble) (he : edgeOf v s = true)
      (hw : windowOf 4 v s = false) (hw1 : windowOf 1 v s = false) : SampleEffect v s (goState .idle s)
  /-- P_RX_WAIT and C_RX_WAIT -/
  | wait (hf : s.fstate = .receive) (hd : s.sampleIndex ≠ s.nextBit) : SampleEffect v s s
  /-- P_RX_BIT -/
  | packetBit (u : State) (hm : s.cfg.mode = false) (hf : s.fstate = .receive) (hd : s.sampleIndex = s.nextBit)
      (hu : BitEffect (acceptBit (effectiveBit v s) s) u) : SampleEffect v s (advanceSchedule u)
  /-- C_IDLE_QUIET and C_IDLE_FALL -/
  | characterIdle (hm : s.cfg.mode = true) (hf : s.fstate = .idle) (hr : (edgeOf v s && v) = false) :
      SampleEffect v s s
  /-- C_IDLE_RISE -/
  | rise (hm : s.cfg.mode = true) (hf : s.fstate = .idle) (he : edgeOf v s = true) (hv : v = true) :
      SampleEffect v s (goState .receive (characterClear (scheduleFirst s)))
  /-- C_RX_DATA -/
  | data (hm : s.cfg.mode = true) (hf : s.fstate = .receive) (hd : s.sampleIndex = s.nextBit)
      (hb : s.bitsReceived ≠ 7) :
      SampleEffect v s
        (advanceSchedule { s with shift := shiftIn s.shift v, bitsReceived := s.bitsReceived + 1 })
  /-- C_RX_STOP_OK -/
  | stopOk (hm : s.cfg.mode = true) (hf : s.fstate = .receive) (hd : s.sampleIndex = s.nextBit)
      (hb : s.bitsReceived = 7) (hv : v = false) (ho : s.outValid = false) :
      SampleEffect v s
        (endCharacterFrame (advanceSchedule { s with outUnit := charUnit s.shift, outValid := true }))
  /-- C_RX_STOP_ERR -/
  | stopErr (hm : s.cfg.mode = true) (hf : s.fstate = .receive) (hd : s.sampleIndex = s.nextBit)
      (hb : s.bitsReceived = 7) (hv : v = true) :
      SampleEffect v s
        (endCharacterFrame (advanceSchedule (report ⟨.framingError, .data (low7 s.shift)⟩ s)))

/-- A sample step that answers a next state has the effect of one row, then updates the extractor, and every
counter is within its width. -/
theorem sampleStep_next {v : Bool} {s t : State} (h : sampleStep v s = .next t) :
    ∃ u, SampleEffect v s u ∧ indexFits t = true ∧ t = extractorUpdate v (edgeOf v s) u := by
  cases hf : s.fstate
  case code11 => rw [sampleStep_code11 hf] at h; cases h
  case idle =>
    cases hm : s.cfg.mode
    · rw [sampleStep_packet_idle hm hf] at h
      obtain ⟨hi, ht⟩ := finishSample_eq_next.1 h
      cases hw : windowOf 1 v s
      · exact ⟨_, .packetIdle hm hf hw, hi, by rw [ht, hw]; rfl⟩
      · exact ⟨_, .lock hm hf hw, hi, by rw [ht, hw]; rfl⟩
    · rw [sampleStep_character_idle hm hf] at h
      split at h
      next hr =>
        simp only [Bool.and_eq_true] at hr
        obtain ⟨hi, ht⟩ := finishSample_eq_next.1 h
        exact ⟨_, .rise hm hf hr.1 hr.2, hi, by rw [ht, hr.1, hr.2]⟩
      next hr =>
        obtain ⟨hi, ht⟩ := finishSample_eq_next.1 h
        exact ⟨_, .characterIdle hm hf (by simpa using hr), hi, ht⟩
  case preamble =>
    cases hm : s.cfg.mode
    · rw [sampleStep_packet_preamble hm hf] at h
      split at h
      next he =>
        split at h
        next hw =>
          obtain ⟨hi, ht⟩ := finishSample_eq_next.1 h
          exact ⟨_, .sync hm hf hw, hi, by rw [ht, he]⟩
        next hw =>
          simp only [Bool.not_eq_true] at hw
          split at h
          next hw1 =>
            obtain ⟨hi, ht⟩ := finishSample_eq_next.1 h
            exact ⟨_, .extend hm hf hw hw1, hi, by rw [ht, he]⟩
          next hw1 =>
            obtain ⟨hi, ht⟩ := finishSample_eq_next.1 h
            exact ⟨_, .lost hm hf he hw (by simpa using hw1), hi, by rw [ht, he]⟩
      next he =>
        simp only [Bool.not_eq_true] at he
        obtain ⟨hi, ht⟩ := finishSample_eq_next.1 h
        exact ⟨_, .preambleQuiet hm hf he, hi, by rw [ht, he]⟩
    · rw [sampleStep_character_preamble hm hf] at h; cases h
  case receive =>
    cases hm : s.cfg.mode
    · rw [sampleStep_packet_receive hm hf] at h
      split at h
      next hd =>
        obtain ⟨u, hu, hi, ht⟩ := execPRxBit_next h
        exact ⟨_, .packetBit u hm hf hd (framePhase_next hu), hi, ht⟩
      next hd =>
        obtain ⟨hi, ht⟩ := finishSample_eq_next.1 h
        exact ⟨_, .wait hf hd, hi, ht⟩
    · rw [sampleStep_character_receive hm hf] at h
      split at h
      next hd =>
        split at h
        next hb =>
          split at h
          next hv =>
            obtain ⟨hi, ht⟩ := finishSample_eq_next.1 h
            exact ⟨_, .stopErr hm hf hd hb hv, hi, by rw [ht, hv]; rfl⟩
          next hv =>
            obtain ⟨u, hu, h⟩ := andThen_eq_next.1 h
            obtain ⟨ho, rfl⟩ := emit_eq_next.1 hu
            obtain ⟨hi, ht⟩ := finishSample_eq_next.1 h
            simp only [Bool.not_eq_true] at hv
            exact ⟨_, .stopOk hm hf hd hb hv ho, hi, by rw [ht, hv]⟩
        next hb =>
          obtain ⟨hi, ht⟩ := finishSample_eq_next.1 h
          exact ⟨_, .data hm hf hd hb, hi, ht⟩
      next hd =>
        obtain ⟨hi, ht⟩ := finishSample_eq_next.1 h
        exact ⟨_, .wait hf hd, hi, ht⟩

/-- What an accepted bit's phase never writes. -/
theorem BitEffect.keeps {s t : State} (h : BitEffect s t) :
    t.params = s.params ∧ t.sampleIndex = s.sampleIndex ∧ t.nextBit = s.nextBit
      ∧ t.lastEdgeIndex = s.lastEdgeIndex ∧ t.prevSample = s.prevSample ∧ t.cfg = s.cfg
      ∧ t.input = s.input ∧ t.sessionOpen = s.sessionOpen ∧ t.invert = s.invert := by
  cases h <;> exact ⟨rfl, rfl, rfl, rfl, rfl, rfl, rfl, rfl, rfl⟩

/-- What no row writes. -/
theorem SampleEffect.keeps {v : Bool} {s t : State} (h : SampleEffect v s t) :
    t.params = s.params ∧ t.sampleIndex = s.sampleIndex ∧ t.lastEdgeIndex = s.lastEdgeIndex
      ∧ t.prevSample = s.prevSample ∧ t.cfg = s.cfg ∧ t.input = s.input
      ∧ t.sessionOpen = s.sessionOpen := by
  cases h
  case packetBit u _ _ _ hu =>
    obtain ⟨h1, h2, -, h4, h5, h6, h7, h8, -⟩ := hu.keeps
    exact ⟨h1, h2, h4, h5, h6, h7, h8⟩
  all_goals exact ⟨rfl, rfl, rfl, rfl, rfl, rfl, rfl⟩

end Sys2Proof.Machine
end

