-- ==== Sys2Proof/Laws/Runs.lean ====
section
/-! SUPPORT. Runs of samples in the reference semantics: a level held outside a frame, the samples between two
instants, and one bit cell of a packet. -/

namespace Sys2Proof.Machine

/-- A run goes on from the state its first part answers. -/
theorem runSamples_append_next {us vs : List Bool} {s t : State} (h : runSamples us s = .next t) :
    runSamples (us ++ vs) s = runSamples vs t := by
  rw [runSamples_append, h, andThen_next]

/-- A run of one sample more. -/
theorem runSamples_cons_next {v : Bool} {vs : List Bool} {s t : State} (h : sampleStep v s = .next t) :
    runSamples (v :: vs) s = runSamples vs t := by
  rw [runSamples_cons, h, andThen_next]

/-- Outside RECEIVE, in Packet mode, a sample equal to the one before is only counted. -/
theorem sampleStep_quiet {s : State} (hw : s.params.indexWidth = none) (hm : s.cfg.mode = false)
    (hf : s.fstate = .idle ∨ s.fstate = .preamble) :
    sampleStep s.prevSample s = .next { s with sampleIndex := s.sampleIndex + 1 } := by
  have he : edgeOf s.prevSample s = false := by simp [edgeOf]
  rcases hf with hf | hf
  · rw [sampleStep_packet_idle hm hf, show windowOf 1 s.prevSample s = false by simp [windowOf, he], he,
      finishSample_unbounded (by simpa using hw)]
    rfl
  · rw [sampleStep_packet_preamble hm hf, he, if_neg (by simp), finishSample_unbounded hw]
    rfl

/-- Outside RECEIVE, in Packet mode, a held level is only counted, however long. -/
theorem runSamples_quiet {s : State} (hw : s.params.indexWidth = none) (hm : s.cfg.mode = false)
    (hf : s.fstate = .idle ∨ s.fstate = .preamble) (n : Nat) :
    runSamples (List.replicate n s.prevSample) s = .next { s with sampleIndex := s.sampleIndex + n } := by
  induction n generalizing s with
  | zero => rfl
  | succ n ih =>
    rw [List.replicate_succ, runSamples_cons_next (sampleStep_quiet hw hm hf)]
    refine (ih (s := { s with sampleIndex := s.sampleIndex + 1 }) hw hm hf).trans ?_
    simp [Nat.add_assoc, Nat.add_comm 1]

/-- In RECEIVE a sample that is no instant only updates the extractor, in both modes. -/
theorem sampleStep_wait {v : Bool} {s : State} (hw : s.params.indexWidth = none) (hf : s.fstate = .receive)
    (hd : s.sampleIndex ≠ s.nextBit) : sampleStep v s = .next (extractorUpdate v (edgeOf v s) s) := by
  cases hm : s.cfg.mode
  · rw [sampleStep_packet_receive hm hf, if_neg hd, finishSample_unbounded hw]
  · rw [sampleStep_character_receive hm hf, if_neg hd, finishSample_unbounded hw]

/-- In RECEIVE a level held between instants leaves all but the extractor's fields. -/
theorem runSamples_wait {s : State} (hw : s.params.indexWidth = none) (hf : s.fstate = .receive) (v : Bool)
    (n : Nat) (hd : s.sampleIndex + n ≤ s.nextBit ∨ s.nextBit < s.sampleIndex) :
    ∃ p l, runSamples (List.replicate n v) s
        = .next { s with prevSample := p, lastEdgeIndex := l, sampleIndex := s.sampleIndex + n }
      ∧ (0 < n → p = v) ∧ (n = 0 → p = s.prevSample) ∧ (s.prevSample = v → l = s.lastEdgeIndex) := by
  induction n generalizing s with
  | zero => exact ⟨s.prevSample, s.lastEdgeIndex, rfl, by simp, by simp, by simp⟩
  | succ n ih =>
    rw [List.replicate_succ, runSamples_cons_next (sampleStep_wait hw hf (by omega))]
    obtain ⟨p, l, h, hp, hp0, hl⟩ := ih (s := extractorUpdate v (edgeOf v s) s) hw hf
      (by simp only [extractorUpdate]; omega)
    refine ⟨p, l, ?_, ?_, by simp, ?_⟩
    · rw [h]; simp [extractorUpdate, Nat.add_assoc, Nat.add_comm 1]
    · intro _
      rcases Nat.eq_zero_or_pos n with h0 | h0
      · exact hp0 h0
      · exact hp h0
    · intro hv
      rw [hl (by rfl)]; simp [extractorUpdate, edgeOf, hv]

/-- The instant of a packet bit in the reference semantics. -/
theorem sampleStep_instant {v : Bool} {s u : State} (hw : s.params.indexWidth = none) (hm : s.cfg.mode = false)
    (hf : s.fstate = .receive) (hd : s.sampleIndex = s.nextBit)
    (hu : framePhase (acceptBit (effectiveBit v s) s) = .next u) :
    sampleStep v s = .next (extractorUpdate v (edgeOf v s) (advanceSchedule u)) := by
  rw [sampleStep_packet_receive hm hf, if_pos hd, execPRxBit, hu, andThen_next, finishSample_unbounded]
  exact (congrArg Config.Params.indexWidth (framePhase_next hu).keeps.1).trans hw

end Sys2Proof.Machine
end

