-- ==== Sys2Proof/Tests/Slice0.lean ====
section
/-! SUPPORT. Tests. Words and expected values are those of spec/30_encoding.md and spec/95_test_vectors.md (named in
each comment), not the model's own answers. `P = 4` and the defaults throughout, as there. The last part gives, for
the hypotheses of each statement, a state and operands that meet them. -/

namespace Sys2Proof.Tests

open Sys2Proof Sys2Proof.Machine

/-- Whether `r` is a next state of which `p` holds. -/
def got (r : Result) (p : State → Bool) : Bool :=
  match r with
  | .next t => p t
  | _ => false

/-- Whether `r` is the fault `f`. -/
def faults (r : Result) (f : Fault) : Bool :=
  match r with
  | .fault x => x == f
  | _ => false

/-- Whether `r` is the refusal `f`. -/
def refuses (r : Result) (f : Refusal) : Bool :=
  match r with
  | .refused x => x == f
  | _ => false

theorem exists_of_got {r : Result} {p : State → Bool} (h : got r p = true) : ∃ t, r = .next t ∧ p t = true := by
  cases r <;> simp_all [got]

/-- An IDLE framer in a session of mode `m` at sample `i`, with `prev` before it and its last edge at `last`. -/
def idleAt (m : Bool) (i : Nat) (prev : Bool) (last : Int) : State :=
  { State.reset with
    cfg := ⟨m, false, false⟩, sessionOpen := true, sampleIndex := i, prevSample := prev, lastEdgeIndex := last }

/-- The same in PREAMBLE. -/
def preambleAt (i : Nat) (prev : Bool) (last : Int) : State :=
  { idleAt false i prev last with fstate := .preamble }

/-- A framer in RECEIVE, mode `m`, at the instant `i`, with `n` bits received in `shift`. -/
def receiveAt (m : Bool) (i n : Nat) (prev : Bool) (shift : Byte) : State :=
  { idleAt m i prev 24 with fstate := .receive, nextBit := i, bitsReceived := n, shift := shift }

/-- A packet framer at the last bit of a payload byte (V9, V10). -/
def payloadAt (i n : Nat) (shift : Byte) (length : Nat) (payload : List Byte) : State :=
  { receiveAt false i n false shift with length := length, payload := payload }

/-! ## WellFormed: each check refuses an ill-formed term -/

/-- 43_host_ops.md R229 -/
theorem test_wf_reserved111 : (Instr.reserved111 0x00#8).wellFormed = false := by decide

/-- 30_encoding.md R94: `D = 1` only in RECEIVE -/
theorem test_wf_due_outside_receive :
    (Instr.pIdleQuiet false true false false false).wellFormed = false
      ∧ (Instr.pPreEdgeLost false true false).wellFormed = false
      ∧ (Instr.cIdleRise true false false false).wellFormed = false := by decide

/-- 30_encoding.md R94: `L = 1` only in Character RECEIVE -/
theorem test_wf_stop_outside_character_receive :
    (Instr.pRxBit false false true false false).wellFormed = false
      ∧ (Instr.pPreEdgeExtend false false true).wellFormed = false
      ∧ (Instr.cIdleFall false true false false).wellFormed = false := by decide

/-- 30_encoding.md R94: no window without an edge -/
theorem test_wf_window_without_edge :
    (Instr.pIdleQuiet false false false true false).wellFormed = false
      ∧ (Instr.cRxData false false false true).wellFormed = false := by decide

/-- 30_encoding.md R94: never both windows -/
theorem test_wf_both_windows :
    (Instr.pPreEdgeStart true false false true).wellFormed = false
      ∧ (Instr.pIdleEdgeSync1 true false false true).wellFormed = false
      ∧ (Instr.cRxStopOk true true true).wellFormed = false := by decide

/-- 30_encoding.md R95 -/
theorem test_wf_reserved_keys :
    (Instr.stepkeyReserved false false false false false false false).wellFormed = false
      ∧ (Instr.stepkeyReservedCharPre false false false false false false).wellFormed = false := by decide

/-- 00_scope.md R17 and the ranges of R7, R15, R16: one violation each -/
theorem test_params_refused :
    paramsValid (Config.withPeriod 4) = true
      ∧ paramsValid (Config.withPeriod 0) = false
      ∧ paramsValid { Config.withPeriod 4 with firstOffset := 0 } = false
      ∧ paramsValid { Config.withPeriod 4 with maxLen := 0 } = false
      ∧ paramsValid { Config.withPeriod 4 with maxLen := 257 } = false
      ∧ paramsValid { Config.withPeriod 4 with tolNum := 2, tolDen := 1 } = false
      ∧ paramsValid { Config.withPeriod 4 with tolDen := 0 } = false
      ∧ paramsValid { Config.withPeriod 4 with initLastEdge := 1 } = false
      ∧ paramsValid { Config.withPeriod 4 with indexWidth := some 0 } = false := by decide

/-- 93_implementation_defined.md I2 and I8: a program with OP 111, loaded or run, and a bad configuration are
refused -/
theorem test_refusals :
    refuses (loadProgram [0x101#11, 0x700#11] State.reset) .reservedOperation = true
      ∧ (match runProgram [0x101#11, 0x700#11] State.reset with
          | .refused x => x == .reservedOperation
          | _ => false) = true
      ∧ refuses (boot (Config.withPeriod 0)) .invalidConfiguration = true := by decide

/-! ## Decode: words written out from 30_encoding.md R89, R90, R93 and R96 -/

/-- HOSTCMD: OP in bits 10:8, ARG in bits 7:0 -/
theorem test_decode_host :
    decodeHostCmd 0b000_00000000#11 = .nop 0x00#8
      ∧ decodeHostCmd 0b001_00000110#11 = .openSession 0x06#8
      ∧ decodeHostCmd 0b010_00000000#11 = .closeSession 0x00#8
      ∧ decodeHostCmd 0b011_00001111#11 = .push 0x0F#8
      ∧ decodeHostCmd 0b100_00000000#11 = .pop 0x00#8
      ∧ decodeHostCmd 0b101_00000000#11 = .status 0x00#8
      ∧ decodeHostCmd 0b110_00000000#11 = .clrerr 0x00#8
      ∧ decodeHostCmd 0b111_10000000#11 = .reserved111 0x80#8 := by decide

/-- STEPKEY, Packet rows: M, S, E, V, D, L, W1, W4 -/
theorem test_decode_packet_rows :
    decodeStepKey 0b0_00_0_1_0_0_0_0#9 = .pIdleQuiet true false false false false
      ∧ decodeStepKey 0b0_00_1_1_0_0_1_0#9 = .pIdleEdgeSync1 true false false false
      ∧ decodeStepKey 0b0_00_1_1_0_0_0_1#9 = .pIdleEdgeNoise true false false true
      ∧ decodeStepKey 0b0_01_0_0_0_0_0_0#9 = .pPreQuiet false false false false false
      ∧ decodeStepKey 0b0_01_1_1_0_0_0_1#9 = .pPreEdgeStart true false false false
      ∧ decodeStepKey 0b0_01_1_0_0_0_1_0#9 = .pPreEdgeExtend false false false
      ∧ decodeStepKey 0b0_01_1_0_0_0_0_0#9 = .pPreEdgeLost false false false
      ∧ decodeStepKey 0b0_10_1_0_0_0_1_0#9 = .pRxWait true false false true false
      ∧ decodeStepKey 0b0_10_0_1_1_0_0_0#9 = .pRxBit false true false false false := by decide

/-- STEPKEY, Character and reserved rows -/
theorem test_decode_character_rows :
    decodeStepKey 0b1_00_0_0_0_0_0_0#9 = .cIdleQuiet false false false false false
      ∧ decodeStepKey 0b1_00_1_1_0_0_1_0#9 = .cIdleRise false false true false
      ∧ decodeStepKey 0b1_00_1_0_0_0_0_0#9 = .cIdleFall false false false false
      ∧ decodeStepKey 0b1_10_1_0_0_0_0_0#9 = .cRxWait true false false false false
      ∧ decodeStepKey 0b1_10_0_1_1_0_0_0#9 = .cRxData false true false false
      ∧ decodeStepKey 0b1_10_0_0_1_1_0_0#9 = .cRxStopOk false false false
      ∧ decodeStepKey 0b1_10_0_1_1_1_0_0#9 = .cRxStopErr false false false
      ∧ decodeStepKey 0b0_11_0_0_0_0_0_0#9 = .stepkeyReserved false false false false false false false
      ∧ decodeStepKey 0b1_01_0_0_0_0_0_0#9 = .stepkeyReservedCharPre false false false false false false := by
  decide

/-- A number with a bit the format does not have is rejected by name. -/
theorem test_decode_rejects :
    decodeNat .hostCmd 0x800 = .error .hostWordTooWide ∧ decodeNat .stepKey 0x200 = .error .stepKeyTooWide := by
  decide

/-- A 16-bit container (log 7): a step key below 512 with a low byte, else a host command word. -/
theorem test_decode_container :
    decodeTableWord 16 0x18C = some (.cRxStopOk false false false)
      ∧ decodeTableWord 16 0x100 = some (.openSession 0x00#8)
      ∧ decodeTableWord 16 0x30F = some (.push 0x0F#8) := by decide

/-! ## Operands -/

/-- V1: unpacking of 0xA5 -/
theorem test_unpack_order :
    samplesOfByte 0xA5#8 = [true, false, true, false, false, true, false, true] := by decide

/-- V2: the window edges at `P = 100`, both bounds -/
theorem test_windows_period_100 :
    let o := Config.withPeriod 100
    let c := { o with windowBounds := .closed }
    windowMatch o 1 60 = false ∧ windowMatch c 1 60 = true ∧ windowMatch c 1 59 = false
      ∧ windowMatch o 1 61 = true ∧ windowMatch o 1 139 = true ∧ windowMatch o 1 140 = false
      ∧ windowMatch c 1 140 = true ∧ windowMatch c 1 141 = false
      ∧ windowMatch o 4 360 = false ∧ windowMatch c 4 360 = true ∧ windowMatch o 4 361 = true
      ∧ windowMatch o 4 439 = true ∧ windowMatch o 4 440 = false ∧ windowMatch c 4 441 = false := by decide

/-- V5: the relative form at `P = 4` -/
theorem test_windows_relative :
    let c := { Config.withPeriod 4 with windowForm := .relative }
    windowMatch c 1 2 = false ∧ windowMatch c 1 3 = true ∧ windowMatch c 1 6 = false
      ∧ windowMatch c 4 9 = false ∧ windowMatch c 4 10 = true ∧ windowMatch c 4 22 = true
      ∧ windowMatch c 4 23 = false := by decide

/-- V6: FIRST_OFFSET for `P = 1..7` -/
theorem test_first_offset : [1, 2, 3, 4, 5, 6, 7].map Config.defaultFirstOffset = [2, 3, 5, 6, 8, 9, 11] := by
  decide

/-- V6, V15 and 70_reset_and_hazards.md R302: a model with `P = 1` has FIRST_OFFSET 1, and the default there is still a
configuration the core runs -/
theorem test_first_offset_override :
    (Config.withPeriod 1).firstOffset = 1 ∧ (Config.withPeriod 2).firstOffset = 3
      ∧ paramsValid { Config.withPeriod 1 with firstOffset := 2 } = true := by decide

/-- V10: the decimal lines of 0x2A, 0x00, 0xFF, 0x80 -/
theorem test_test_lines :
    testLineBytes 0x2A#8 = [0x34#8, 0x32#8, 0x0A#8] ∧ testLineBytes 0x00#8 = [0x30#8, 0x0A#8]
      ∧ testLineBytes 0xFF#8 = [0x32#8, 0x35#8, 0x35#8, 0x0A#8]
      ∧ testLineBytes 0x80#8 = [0x31#8, 0x32#8, 0x38#8, 0x0A#8] := by decide

/-! ## Step keys assembled (V7, V12) -/

theorem test_assembled_keys :
    assembleKey false (idleAt false 10 false 0) = 0x000#9
      ∧ assembleKey true (idleAt false 4 false 0) = 0x032#9
      ∧ assembleKey true (idleAt false 16 false 0) = 0x031#9
      ∧ assembleKey true (preambleAt 24 false 8) = 0x071#9
      ∧ assembleKey false (preambleAt 8 true 4) = 0x062#9
      ∧ assembleKey false (preambleAt 14 true 4) = 0x060#9
      ∧ assembleKey true (idleAt true 4 false 0) = 0x132#9
      ∧ assembleKey false (receiveAt true 38 7 false 0x41#8) = 0x18C#9
      ∧ assembleKey true (receiveAt true 38 7 true 0x41#8) = 0x19C#9 := by decide

/-! ## Packet rows, one step (V7 to V10) -/

/-- V7 a -/
theorem test_pIdleQuiet :
    got (sampleStep false (idleAt false 10 false 0))
      (fun t => t == { idleAt false 10 false 0 with sampleIndex := 11 }) = true := by decide

/-- V7 b -/
theorem test_pIdleEdgeSync1 :
    got (sampleStep true (idleAt false 4 false 0))
      (fun t => t.fstate == .preamble && t.lastEdgeIndex == 4) = true := by decide

/-- V7 c and h: a 4× edge is noise too -/
theorem test_pIdleEdgeNoise :
    got (sampleStep false (idleAt false 8 true 0)) (fun t => t.fstate == .idle && t.lastEdgeIndex == 8) = true
      ∧ got (sampleStep true (idleAt false 16 false 0)) (fun t => t.fstate == .idle) = true := by decide

/-- V7 d -/
theorem test_pPreQuiet :
    got (sampleStep false (preambleAt 12 false 8)) (fun t => t.fstate == .preamble && t.lastEdgeIndex == 8)
      = true := by decide

/-- V7 e -/
theorem test_pPreEdgeStart :
    got (sampleStep true (preambleAt 24 false 8))
      (fun t => t.fstate == .receive && t.invert && t.nextBit == 30 && t.lastEdgeIndex == 24) = true := by
  decide

/-- V7 m -/
theorem test_pPreEdgeStart_complement :
    got (sampleStep true
        { preambleAt 24 false 8 with params := { Config.default with polarityLatch := .complement } })
      (fun t => t.fstate == .receive && !t.invert && t.nextBit == 30) = true := by decide

/-- V7 f -/
theorem test_pPreEdgeExtend :
    got (sampleStep false (preambleAt 8 true 4)) (fun t => t.fstate == .preamble && t.lastEdgeIndex == 8)
      = true := by decide

/-- V7 g and k -/
theorem test_pPreEdgeLost :
    got (sampleStep false (preambleAt 14 true 4)) (fun t => t.fstate == .idle && t.lastEdgeIndex == 14) = true
      ∧ got (sampleStep false (preambleAt 10 true 8)) (fun t => t.fstate == .idle) = true := by decide

/-- V7 l -/
theorem test_pRxWait :
    got (sampleStep false { receiveAt false 27 0 true 0 with nextBit := 30 })
      (fun t => t.fstate == .receive && t.lastEdgeIndex == 27 && t.nextBit == 30) = true := by decide

/-- V8 a, d and g: the 8th bit -/
theorem test_pRxBit_length :
    got (sampleStep false (receiveAt false 58 7 false 0x00#8))
        (fun t => t.fstate == .idle && t.result.events == [⟨.lengthReject, .length 256⟩] && t.nextBit == 62)
        = true
      ∧ got (sampleStep true (receiveAt false 58 7 false 0x08#8))
        (fun t => t.fstate == .idle && t.errLength && t.result.events == [⟨.lengthReject, .length 17⟩]) = true
      ∧ got (sampleStep false { receiveAt false 58 7 false 0x01#8 with cfg := ⟨false, true, false⟩ })
        (fun t => t.fstate == .receive && t.length == 2 && t.shift == 0 && t.bitsReceived == 8) = true := by
  decide

/-- V9 a and b, V10 rows 1 and 2: the last bit of a byte -/
theorem test_pRxBit_payload :
    got (sampleStep true (payloadAt 90 15 0x52#8 1 []))
        (fun t => t.fstate == .idle && t.outValid && t.outUnit == ⟨.packet, 1, [0xA5#8]⟩ && t.nextBit == 94)
        = true
      ∧ got (sampleStep true (payloadAt 90 15 0x52#8 2 []))
        (fun t => t.fstate == .receive && t.payload == [0xA5#8] && t.shift == 0) = true
      ∧ got (sampleStep true { payloadAt 126 23 0x6A#8 2 [0x2A#8] with cfg := ⟨false, true, false⟩ })
        (fun t => t.outUnit == ⟨.testLine, 3, [0x34#8, 0x32#8, 0x0A#8]⟩) = true
      ∧ got (sampleStep false { payloadAt 126 23 0x15#8 2 [0x2A#8] with cfg := ⟨false, true, false⟩ })
        (fun t => !t.outValid && t.errIntegrity
          && t.result.events == [⟨.integrityFail, .pair 0x2A#8 0x2A#8⟩]) = true := by decide

/-! ## Character rows, one step (V12) -/

/-- V12 a -/
theorem test_cIdleQuiet :
    got (sampleStep false (idleAt true 2 false 0))
      (fun t => t == { idleAt true 2 false 0 with sampleIndex := 3 }) = true := by decide

/-- V12 b -/
theorem test_cIdleRise :
    got (sampleStep true (idleAt true 4 false 0))
      (fun t => t.fstate == .receive && t.nextBit == 10 && t.lastEdgeIndex == 4) = true := by decide

/-- V12 c -/
theorem test_cIdleFall :
    got (sampleStep false (idleAt true 40 true 36)) (fun t => t.fstate == .idle && t.lastEdgeIndex == 40)
      = true := by decide

/-- V12 d -/
theorem test_cRxWait :
    got (sampleStep false { receiveAt true 12 0 true 0 with nextBit := 14 })
      (fun t => t.fstate == .receive && t.lastEdgeIndex == 12 && t.nextBit == 14) = true := by decide

/-- V12 f and i -/
theorem test_cRxData :
    got (sampleStep true (receiveAt true 34 6 true 0b100000#8))
        (fun t => t.shift == 0b1000001#8 && t.bitsReceived == 7 && t.nextBit == 38) = true
      ∧ got (sampleStep false (receiveAt true 14 1 true 0b1#8))
        (fun t => t.shift == 0b10#8 && t.lastEdgeIndex == 14) = true := by decide

/-- V12 g -/
theorem test_cRxStopOk :
    got (sampleStep false (receiveAt true 38 7 false 0x41#8))
      (fun t => t.fstate == .idle && t.outUnit == ⟨.char, 1, [0x41#8]⟩ && t.nextBit == 42 && t.shift == 0)
      = true := by decide

/-- V12 h -/
theorem test_cRxStopErr :
    got (sampleStep true (receiveAt true 38 7 true 0x41#8))
      (fun t => t.fstate == .idle && !t.outValid && t.errFraming
        && t.result.events == [⟨.framingError, .data 0x41#8⟩]) = true := by decide

/-! ## Host operations, one step (V14) -/

/-- The word `w` presented to `s`. -/
def given (w : HostWord) (s : State) : State := { s with input := [.command w] }

/-- V14 a -/
theorem test_nop : got (step (given 0x000#11 State.reset)) (fun t => t == { State.reset with result := t.result }
    && t.result.accepted) = true := by decide

/-- V14 b, i and k -/
theorem test_open :
    got (step (given 0x101#11 State.reset)) (fun t => statusWord t == 0x181#16) = true
      ∧ got (step (given 0x1F9#11 State.reset)) (fun t => statusWord t == 0x181#16) = true
      ∧ got (step (given 0x106#11 State.reset)) (fun t => statusWord t == 0x681#16) = true := by decide

/-- V14 i: CLOSE with and without a session -/
theorem test_close :
    got (step (given 0x200#11 (idleAt true 0 false 0)))
        (fun t => !t.sessionOpen && t.result == ⟨true, [⟨.sessionEnd, .none⟩], .none⟩) = true
      ∧ got (step (given 0x200#11 State.reset)) (fun t => !t.result.accepted) = true := by decide

/-- PR1: the PUSH at sample 32 reads the last data bit and the stop bit. V14 c: PUSH without a session. -/
theorem test_push :
    got (step (given 0x3F0#11 { receiveAt true 32 6 false 0x20#8 with nextBit := 34 }))
        (fun t => t.outUnit == ⟨.char, 1, [0x41#8]⟩ && t.sampleIndex == 40 && t.lastEdgeIndex == 36
          && t.nextBit == 42) = true
      ∧ got (step (given 0x30F#11 State.reset)) (fun t => !t.result.accepted && t.sampleIndex == 0) = true := by
  decide

/-- V14 f: POP with and without a unit -/
theorem test_pop :
    got (step (given 0x400#11
        { idleAt true 0 false 0 with outValid := true, outUnit := ⟨.char, 1, [0x41#8]⟩ }))
        (fun t => !t.outValid && t.result.data == .unit ⟨.char, 1, [0x41#8]⟩) = true
      ∧ got (step (given 0x400#11 State.reset)) (fun t => t.result == ⟨true, [], .unit ⟨.none, 0, []⟩⟩)
        = true := by decide

/-- V14 d and h: STATUS of a closed session in RECEIVE, and of one with a pending unit -/
theorem test_status :
    got (step (given 0x500#11 { receiveAt false 40 3 true 0 with sessionOpen := false }))
        (fun t => t.result.data == .status 0x004#16) = true
      ∧ got (step (given 0x500#11
          { idleAt false 0 false 0 with outValid := true, outUnit := ⟨.char, 1, [0x41#8]⟩ }))
        (fun t => t.result.data == .status 0x009#16) = true := by decide

/-- V14 g -/
theorem test_clrerr :
    got (step (given 0x600#11 { idleAt true 80 false 76 with errFraming := true }))
      (fun t => statusWord t == 0x181#16) = true := by decide

/-- V14 j -/
theorem test_reserved111 :
    got (step (given 0x700#11 (idleAt true 4 false 0)))
      (fun t => t == { idleAt true 4 false 0 with result := ⟨false, [], .none⟩ }) = true := by decide

/-- 30_encoding.md R95 and V16: the reserved keys -/
theorem test_reserved_keys :
    faults (sampleStep true { idleAt false 4 false 0 with fstate := .code11 }) .unreachableFramingState = true
      ∧ faults (sampleStep true { idleAt true 4 false 0 with fstate := .preamble }) .unreachableFramingState
        = true := by decide

/-- 00_scope.md R16: a 4-bit build at sample 14 goes on and at sample 15 stops -/
theorem test_index_width :
    let narrow (i : Nat) : State :=
      { idleAt false i false 0 with params := { Config.default with indexWidth := some 4 } }
    got (sampleStep false (narrow 14)) (fun t => t.sampleIndex == 15) = true
      ∧ faults (sampleStep false (narrow 15)) .indexOverflow = true := by decide

/-! ## The assembler (30_encoding.md R108 to R110) -/

theorem test_assemble_lines :
    assembleText ["open Packet,TEST,DEBUG ; comment".toList, "PUSH 0b1111".toList, "".toList, "POP".toList]
        = .ok [0x106#11, 0x30F#11, 0x400#11] := by decide

theorem test_assemble_pseudo :
    assembleText ["STREAM 0*4 1*4".toList, "BYTES 0xF0, 15".toList]
        = .ok [0x30F#11, 0x400#11, 0x3F0#11, 0x400#11, 0x30F#11, 0x400#11]
      ∧ assembleText ["STREAM 0*4 1*3".toList] = .error .partialByte
      ∧ assembleText ["PUSH 256".toList] = .error .badOperand := by decide

/-- Log 19: a repeated option is taken, a count in `0x` form is not. -/
theorem test_assemble_choices :
    assembleText ["OPEN PACKET,TEST,TEST".toList] = .ok [0x102#11]
      ∧ assembleText ["STREAM 0*0x8".toList] = .error .badOperand := by decide

/-! ## The line frames (30_encoding.md R97, R101) -/

/-- The streams of PR2 and PR1, which end in four more samples of the last level. -/
theorem test_line_frames :
    packetFrame 4 false [0xA5#8] ++ List.replicate 4 false
        = samplesOfRuns [(false, 4), (true, 4), (false, 16), (true, 32), (false, 8), (true, 4), (false, 4),
            (true, 8), (false, 4), (true, 4), (false, 8)]
      ∧ List.replicate 4 false ++ characterFrame 4 0x41#7
        = samplesOfRuns [(false, 4), (true, 8), (false, 20), (true, 4), (false, 4)] := by decide

/-! ## Witnesses: states and operands that meet the hypotheses of a statement, every clause's where it has
several -/

/-- A next state whose properties are not asked for. -/
theorem answers {r : Result} (h : got r (fun _ => true) = true) : ∃ t, r = .next t :=
  let ⟨t, ht, _⟩ := exists_of_got h
  ⟨t, ht⟩

theorem reset_valid : paramsValid State.reset.params = true := by decide

/-- In the reference semantics the counters always fit. -/
theorem fits {s : State} (h : s.params.indexWidth = none) {i n : Nat} {e : Int} : CountersFit s i n e := by
  intro w hw; simp [h] at hw

/-- A 5-bit build of the core in `s`. -/
def narrow5 (s : State) : State := { s with params := { Config.default with indexWidth := some 5 } }

/-- In a 5-bit build they fit up to 31. -/
theorem fits_up_to_31 {s : State} {i n : Nat} {e : Int} (hi : i ≤ 31) (hn : n ≤ 31) (he : e ≤ 31) :
    CountersFit (narrow5 s) i n e := by
  intro w hw
  obtain rfl : 5 = w := by simpa [narrow5] using hw
  refine ⟨?_, ?_, ?_⟩ <;> omega

theorem witness_StepRunsTheDecodedInstruction :
    paramsValid State.reset.params = true
      ∧ (given 0x101#11 State.reset).input = .command 0x101#11 :: []
      ∧ ({ State.reset with input := [.sample true] } : State).input = .sample true :: []
      ∧ State.reset.input = []
      ∧ formatOf 11 0x700 = .hostCmd ∧ decodeTableWord 11 0x700 = some (.reserved111 0x00#8)
      ∧ formatOf 11 0x000 = .hostCmd ∧ decodeTableWord 11 0x000 = some (.nop 0x00#8) := by decide

theorem witness_PresentedKeySelectsItsRow :
    paramsValid State.reset.params = true
      ∧ windowMatch State.reset.params 1 State.reset.params.bitPeriod = true
      ∧ (decodeStepKey 0x071#9).wellFormed = true ∧ (decodeStepKey 0x19C#9).wellFormed = true := by decide

theorem witness_ResetInputGivesResetValues :
    paramsValid State.reset.params = true
      ∧ ({ receiveAt true 38 7 true 0x41#8 with input := [.reset] } : State).input = .reset :: [] := by decide

theorem witness_WindowMatchIsTheToleranceBand : ((1 : Nat) = 1 ∨ (1 : Nat) = 4) ∧ ((4 : Nat) = 1 ∨ (4 : Nat) = 4) := by
  decide

/-- Each constraint of 00_scope.md R17 violated at its boundary. -/
theorem witness_InvalidConfigurationIsRefused :
    (Config.withPeriod 0).bitPeriod < 1
      ∧ ({ Config.withPeriod 4 with firstOffset := 0 } : Config.Params).firstOffset < 1
      ∧ ({ Config.withPeriod 4 with maxLen := 0 } : Config.Params).maxLen < 1
      ∧ 256 < ({ Config.withPeriod 4 with maxLen := 257 } : Config.Params).maxLen
      ∧ ∃ delta : Nat,
        windowMatch { Config.withPeriod 4 with tolNum := 2, tolDen := 1 } 1 delta = true
          ∧ windowMatch { Config.withPeriod 4 with tolNum := 2, tolDen := 1 } 4 delta = true := by
  exact ⟨by decide, by decide, by decide, by decide, 10, by decide⟩

theorem witness_DefaultToleranceIsAlwaysAccepted : 1 ≤ (1 : Nat) := by decide

theorem witness_ParametersNeverChange : ∃ s t, step s = .next t :=
  let ⟨t, h⟩ := answers (r := step (given 0x101#11 State.reset)) (by decide)
  ⟨_, t, h⟩

theorem witness_EverySampleStepUpdatesTheExtractor : ∃ v s t, sampleStep v s = .next t :=
  let ⟨t, h⟩ := answers (r := sampleStep true (idleAt false 4 false 0)) (by decide)
  ⟨_, _, t, h⟩

/-- A packet framer after 16 bits of a two-byte frame: the invariant holds in the middle of a frame. -/
theorem inv_in_payload : Inv (payloadAt 66 16 0x00#8 2 [0xA5#8]) where
  session := by
    constructor <;> simp [payloadAt, receiveAt, idleAt, State.reset, State.resetWith, Config.default,
      Config.withPeriod]
  output := by constructor <;> simp [payloadAt, receiveAt, idleAt, State.reset, State.resetWith, OutUnit.empty]

/-- A character framer with all seven data bits. -/
theorem inv_at_stop_bit : Inv (receiveAt true 38 7 false 0x41#8) where
  session := by
    constructor <;> simp [receiveAt, idleAt, State.reset, State.resetWith, Config.default, Config.withPeriod]
  output := by constructor <;> simp [receiveAt, idleAt, State.reset, State.resetWith, OutUnit.empty]

theorem witness_AssembledKeysAreConsistent :
    ∃ s, Inv s ∧ paramsValid s.params = true ∧ s.fstate = .receive ∧ s.bitsReceived = 7 :=
  ⟨_, inv_at_stop_bit, by decide, rfl, rfl⟩

/-- The first and the last key of each reserved pattern, a state that assembles one, and one that meets the
invariant. -/
theorem witness_ReservedKeysFault :
    keyReserved 0x0C0#9 = true ∧ keyReserved 0x1FF#9 = true ∧ keyReserved 0x140#9 = true
      ∧ keyReserved 0x17F#9 = true
      ∧ keyReserved (assembleKey true { idleAt true 4 false 0 with fstate := .preamble }) = true
      ∧ Inv (receiveAt true 38 7 false 0x41#8) :=
  ⟨by decide, by decide, by decide, by decide, by decide, inv_at_stop_bit⟩

/-- The narrowest and the widest accepted MAX_LEN, and the smallest period. -/
theorem witness_BootGivesTheResetValues :
    paramsValid { Config.default with maxLen := 1 } = true
      ∧ paramsValid { Config.default with maxLen := 256 } = true
      ∧ paramsValid (Config.withPeriod 1) = true := by decide

/-- In RECEIVE at and before the instant, entering RECEIVE, and neither. -/
theorem witness_ScheduleMovesOnlyAtEntryAndInstants :
    (∃ t, sampleStep true (receiveAt true 34 6 true 0x20#8) = .next t)
      ∧ (∃ t, sampleStep false { receiveAt true 12 0 true 0 with nextBit := 14 } = .next t)
      ∧ (∃ t, sampleStep true (preambleAt 24 false 8) = .next t ∧ (t.fstate == .receive) = true)
      ∧ ∃ t, sampleStep true (idleAt false 4 false 0) = .next t ∧ (t.fstate == .preamble) = true :=
  ⟨answers (by decide), answers (by decide), exists_of_got (by decide), exists_of_got (by decide)⟩

/-- A 4-bit build at the last index that fits and at the first that does not. -/
theorem witness_FiniteWidthRefinesTheReference :
    (∃ t, sampleStep false
          { idleAt false 14 false 0 with params := { Config.default with indexWidth := none } } = .next t
        ∧ (decide (t.sampleIndex < 2 ^ 4 ∧ t.nextBit < 2 ^ 4 ∧ t.lastEdgeIndex < (2 : Int) ^ 4)) = true)
      ∧ ∃ t, sampleStep false
          { idleAt false 15 false 0 with params := { Config.default with indexWidth := none } } = .next t
        ∧ (decide ¬ (t.sampleIndex < 2 ^ 4 ∧ t.nextBit < 2 ^ 4 ∧ t.lastEdgeIndex < (2 : Int) ^ 4)) = true :=
  ⟨exists_of_got (by decide), exists_of_got (by decide)⟩

/-- Packet mode in IDLE, PREAMBLE, and RECEIVE before an instant, at the 8th bit and at the last bit. -/
theorem witness_PacketStateGraph :
    (∃ t, sampleStep true (idleAt false 4 false 0) = .next t)
      ∧ (∃ t, sampleStep true (preambleAt 24 false 8) = .next t)
      ∧ (∃ t, sampleStep false { receiveAt false 27 0 true 0 with nextBit := 30 } = .next t)
      ∧ (∃ t, sampleStep true (receiveAt false 58 7 false 0x08#8) = .next t)
      ∧ ∃ t, sampleStep true (payloadAt 90 15 0x52#8 1 []) = .next t :=
  ⟨answers (by decide), answers (by decide), answers (by decide), answers (by decide), answers (by decide)⟩

/-- In the reference semantics, and at the last sample a 5-bit build counts. -/
theorem witness_QuietRowsOnlyCountTheSample :
    let s := idleAt false 10 false 0
    let n := narrow5 (receiveAt false 30 0 true 0)
    CountersFit s (s.sampleIndex + 1) s.nextBit s.lastEdgeIndex
      ∧ CountersFit n (n.sampleIndex + 1) n.nextBit n.lastEdgeIndex :=
  ⟨fits rfl, fits_up_to_31 (by decide) (by decide) (by decide)⟩

theorem witness_IgnoredEdgesAreOnlyRecorded :
    let s := idleAt false 8 true 0
    let n := narrow5 (receiveAt false 30 0 true 0)
    CountersFit s (s.sampleIndex + 1) s.nextBit s.sampleIndex
      ∧ CountersFit n (n.sampleIndex + 1) n.nextBit n.sampleIndex :=
  ⟨fits rfl, fits_up_to_31 (by decide) (by decide) (by decide)⟩

theorem witness_LockAndLostEdgesMoveTheFramer :
    let s := idleAt false 4 false 0
    let n := narrow5 (preambleAt 30 true 4)
    CountersFit s (s.sampleIndex + 1) s.nextBit s.sampleIndex
      ∧ CountersFit n (n.sampleIndex + 1) n.nextBit n.sampleIndex :=
  ⟨fits rfl, fits_up_to_31 (by decide) (by decide) (by decide)⟩

/-- At 25 the first instant, 31, is the last that fits 5 bits. -/
theorem witness_SyncEdgeStartsAFrame :
    let s := preambleAt 24 false 8
    let n := narrow5 (preambleAt 25 false 9)
    CountersFit s (s.sampleIndex + 1) (s.sampleIndex + s.params.firstOffset) s.sampleIndex
      ∧ CountersFit n (n.sampleIndex + 1) (n.sampleIndex + n.params.firstOffset) n.sampleIndex :=
  ⟨fits rfl, fits_up_to_31 (by decide) (by decide) (by decide)⟩

theorem witness_StartEdgeAndDataInstants :
    let s := idleAt true 4 false 0
    let d := receiveAt true 34 6 true 0x20#8
    let n := narrow5 (receiveAt true 27 5 true 0x10#8)
    CountersFit s (s.sampleIndex + 1) (s.sampleIndex + s.params.firstOffset) s.sampleIndex
      ∧ CountersFit d (d.sampleIndex + 1) (d.nextBit + d.params.bitPeriod) d.sampleIndex
      ∧ CountersFit n (n.sampleIndex + 1) (n.nextBit + n.params.bitPeriod) n.lastEdgeIndex :=
  ⟨fits rfl, fits rfl, fits_up_to_31 (by decide) (by decide) (by decide)⟩

theorem witness_StopBitEmitsOrReports :
    let s := receiveAt true 38 7 false 0x41#8
    let n := narrow5 (receiveAt true 27 7 true 0x41#8)
    CountersFit s (s.sampleIndex + 1) (s.nextBit + s.params.bitPeriod) s.lastEdgeIndex ∧ s.outValid = false
      ∧ CountersFit n (n.sampleIndex + 1) (n.nextBit + n.params.bitPeriod) n.sampleIndex :=
  ⟨fits rfl, rfl, fits_up_to_31 (by decide) (by decide) (by decide)⟩

theorem witness_LengthBitsShiftIn :
    (receiveAt false 54 6 false 0x08#8).bitsReceived < 7
      ∧ CountersFit (receiveAt false 54 6 false 0x08#8) 55 58 24 := ⟨by decide, fits rfl⟩

/-- Lengths 16 and 17 at MAX_LEN 16, and 2 and 3 in test mode. -/
theorem witness_EighthBitDecidesTheLength :
    (receiveAt false 58 7 false 0x08#8).bitsReceived = 7
      ∧ CountersFit (receiveAt false 58 7 false 0x08#8) 59 62 24
      ∧ ¬ (Config.default.maxLen < 16 ∨ ((false : Bool) = true ∧ 16 ≠ 2))
      ∧ (Config.default.maxLen < 17 ∨ ((false : Bool) = true ∧ 17 ≠ 2))
      ∧ ¬ (Config.default.maxLen < 2 ∨ ((true : Bool) = true ∧ 2 ≠ 2))
      ∧ (Config.default.maxLen < 3 ∨ ((true : Bool) = true ∧ 3 ≠ 2)) :=
  ⟨rfl, fits rfl, by decide, by decide, by decide, by decide⟩

theorem witness_PayloadBitsPackIntoBytes :
    8 ≤ (payloadAt 62 8 0x00#8 2 []).bitsReceived ∧ ((payloadAt 62 8 0x00#8 2 []).bitsReceived - 7) % 8 ≠ 0
      ∧ CountersFit (payloadAt 62 8 0x00#8 2 []) 63 66 24
      ∧ 8 ≤ (payloadAt 90 15 0x52#8 2 []).bitsReceived
      ∧ ((payloadAt 90 15 0x52#8 2 []).bitsReceived - 7) % 8 = 0
      ∧ (payloadAt 90 15 0x52#8 2 []).payload.length + 1 ≠ (payloadAt 90 15 0x52#8 2 []).length :=
  ⟨by decide, by decide, fits rfl, by decide, by decide, by decide⟩

/-- A normal frame, a test frame whose bytes are complements, and one whose bytes are not (V9 a, V10). -/
theorem witness_CompletionEmitsOrReports :
    let n : State := payloadAt 90 15 0x52#8 1 []
    let t : State := { payloadAt 126 23 0x6A#8 2 [0x2A#8] with cfg := ⟨false, true, false⟩ }
    (8 ≤ n.bitsReceived ∧ (n.bitsReceived - 7) % 8 = 0 ∧ n.payload.length + 1 = n.length
        ∧ CountersFit n 91 94 24 ∧ n.cfg.test = false ∧ n.outValid = false)
      ∧ (8 ≤ t.bitsReceived ∧ (t.bitsReceived - 7) % 8 = 0 ∧ t.payload.length + 1 = t.length
        ∧ CountersFit t 127 130 24 ∧ t.cfg.test = true ∧ t.payload = [0x2A#8] ∧ t.outValid = false
        ∧ ((t.shift <<< 1) ||| 1#8) = ~~~0x2A#8 ∧ ((t.shift <<< 1) ||| 0#8) ≠ ~~~0x2A#8) :=
  ⟨⟨by decide, by decide, by decide, fits rfl, rfl, rfl⟩,
    ⟨by decide, by decide, by decide, fits rfl, rfl, rfl, rfl, by decide, by decide⟩⟩

theorem witness_EmitIntoAFullRegisterFaults :
    let n : State := { payloadAt 90 15 0x52#8 1 [] with outValid := true }
    let t : State := { payloadAt 126 23 0x6A#8 2 [0x2A#8] with outValid := true, cfg := ⟨false, true, false⟩ }
    (n.outValid = true ∧ 8 ≤ n.bitsReceived ∧ (n.bitsReceived - 7) % 8 = 0
        ∧ n.payload.length + 1 = n.length ∧ n.cfg.test = false)
      ∧ (t.outValid = true ∧ 8 ≤ t.bitsReceived ∧ (t.bitsReceived - 7) % 8 = 0
        ∧ t.payload.length + 1 = t.length ∧ t.payload = [0x2A#8] ∧ ((t.shift <<< 1) ||| 1#8) = ~~~0x2A#8) := by
  decide

/-- Character mode in IDLE with and without a rising edge, at a data bit, and at the stop bit low and high. -/
theorem witness_CharacterStateGraph :
    (∃ t, sampleStep true (idleAt true 4 false 0) = .next t)
      ∧ (∃ t, sampleStep false (idleAt true 40 true 36) = .next t)
      ∧ (∃ t, sampleStep true (receiveAt true 34 6 true 0x20#8) = .next t)
      ∧ (∃ t, sampleStep false (receiveAt true 38 7 false 0x41#8) = .next t)
      ∧ ∃ t, sampleStep true (receiveAt true 38 7 true 0x41#8) = .next t :=
  ⟨answers (by decide), answers (by decide), answers (by decide), answers (by decide), answers (by decide)⟩

/-- A PUSH refused for want of a session, one refused for a pending unit, and one that is ready. -/
theorem witness_PushIsEightSampleSteps :
    State.reset.sessionOpen = false
      ∧ ({ idleAt true 0 false 0 with outValid := true } : State).outValid = true
      ∧ (idleAt true 0 false 0).sessionOpen = true ∧ (idleAt true 0 false 0).outValid = false := by decide

theorem witness_ReadyPushCompletesWithAtMostOneFrameEnd :
    let s := receiveAt true 38 7 false 0x41#8
    Inv s ∧ Reference s ∧ s.sessionOpen = true ∧ s.outValid = false :=
  ⟨inv_at_stop_bit, ⟨by decide, rfl⟩, rfl, rfl⟩

theorem witness_PushPopExpansionIsAlwaysAccepted :
    let s := payloadAt 66 16 0x00#8 2 [0xA5#8]
    Inv s ∧ Reference s ∧ s.sessionOpen = true ∧ s.outValid = false :=
  ⟨inv_in_payload, ⟨by decide, rfl⟩, rfl, rfl⟩

theorem inv_given (w : HostWord) : Inv (given w (receiveAt true 38 7 false 0x41#8)) where
  session := by
    have h := inv_at_stop_bit.session
    exact ⟨h.1, h.2, h.3, h.4, h.5, h.6, h.7, h.8, h.9, h.10⟩
  output := by
    have h := inv_at_stop_bit.output
    exact ⟨h.1, h.2, h.3, h.4, h.5, h.6⟩

/-- A PUSH that runs, and the reserved operation. -/
theorem witness_HostCommandsNeverStopTheCore :
    let s (w : HostWord) := given w (receiveAt true 38 7 false 0x41#8)
    (Inv (s 0x300#11) ∧ Reference (s 0x300#11) ∧ (s 0x300#11).input = .command 0x300#11 :: [])
      ∧ (Inv (s 0x700#11) ∧ Reference (s 0x700#11) ∧ (s 0x700#11).input = .command 0x700#11 :: []) :=
  ⟨⟨inv_given _, ⟨by decide, rfl⟩, rfl⟩, ⟨inv_given _, ⟨by decide, rfl⟩, rfl⟩⟩

theorem witness_EveryStepKeepsTheInvariant : ∃ s t, Inv s ∧ step s = .next t :=
  let ⟨t, h⟩ := answers (r := step (given 0x300#11 (receiveAt true 38 7 false 0x41#8))) (by decide)
  ⟨_, t, inv_given _, h⟩

theorem witness_ResetMeetsTheInvariant : paramsValid Config.default = true := by decide

theorem witness_OnlyOpenWritesTheConfiguration :
    ∃ i s t, (∀ a, i ≠ Instr.openSession a) ∧ exec i s = .next t :=
  ⟨.clrerr 0x00#8, State.reset, _, nofun, rfl⟩

/-- CLOSE, and CLOSE and a reset as steps, each ending a session. -/
theorem witness_OnlyCloseEndsASession :
    (∃ i s t, exec i s = .next t ∧ s.sessionOpen = true ∧ t.sessionOpen = false)
      ∧ (∃ s t, step s = .next t ∧ s.sessionOpen = true ∧ t.sessionOpen = false)
      ∧ ∃ s t, step s = .next t ∧ s.sessionOpen = true ∧ t.sessionOpen = false ∧ s.input = [.reset] := by
  refine ⟨⟨.closeSession 0x00#8, idleAt true 0 false 0, ?_⟩, ⟨given 0x200#11 (idleAt true 0 false 0), ?_⟩,
    ⟨{ idleAt true 0 false 0 with input := [.reset] }, ?_⟩⟩
  · obtain ⟨t, ht, h⟩ := exists_of_got
      (r := exec (.closeSession 0x00#8) (idleAt true 0 false 0)) (p := fun t => !t.sessionOpen) (by decide)
    exact ⟨t, ht, rfl, by simpa using h⟩
  · obtain ⟨t, ht, h⟩ := exists_of_got
      (r := step (given 0x200#11 (idleAt true 0 false 0))) (p := fun t => !t.sessionOpen) (by decide)
    exact ⟨t, ht, rfl, by simpa using h⟩
  · obtain ⟨t, ht, h⟩ := exists_of_got
      (r := step { idleAt true 0 false 0 with input := [.reset] }) (p := fun t => !t.sessionOpen) (by decide)
    exact ⟨t, ht, rfl, by simpa using h, rfl⟩

theorem witness_OnlyPopTakesAPendingUnit :
    ∃ i s t, (∀ a, i ≠ Instr.pop a) ∧ exec i s = .next t ∧ s.outValid = true :=
  ⟨.openSession 0x00#8, { State.reset with outValid := true, outUnit := ⟨.char, 1, [0x41#8]⟩ }, _, nofun, rfl, rfl⟩

/-- OPEN and CLRERR, another host operation, and a step-key row that reports an event. -/
theorem witness_StickyFlagsFollowTheEvents :
    (∃ t, exec (.clrerr 0x00#8) State.reset = .next t)
      ∧ (∃ t, exec (.push 0x80#8) (receiveAt true 38 7 true 0x41#8) = .next t
          ∧ (t.result.events == [⟨.framingError, .data 0x41#8⟩]) = true)
      ∧ isHostOp (.push 0x80#8) = true ∧ (∀ a, Instr.push 0x80#8 ≠ .openSession a ∧ Instr.push 0x80#8 ≠ .clrerr a)
      ∧ isHostOp (.cRxStopErr false false false) = false
      ∧ ∃ t, exec (.cRxStopErr false false false) (receiveAt true 38 7 true 0x41#8) = .next t
          ∧ (t.result.events == [⟨.framingError, .data 0x41#8⟩]) = true :=
  ⟨⟨_, rfl⟩, exists_of_got (by decide), by decide, fun _ => ⟨nofun, nofun⟩, by decide, exists_of_got (by decide)⟩

theorem witness_EventsCarryTheirInfo :
    ∃ i s t, (∀ ev ∈ s.result.events, eventNamed ev) ∧ exec i s = .next t ∧ t.result.events.length = 1 := by
  obtain ⟨t, ht, h⟩ := exists_of_got
    (r := exec (.cRxStopErr false false false) (receiveAt true 38 7 true 0x41#8))
    (p := fun t => t.result.events.length == 1) (by decide)
  exact ⟨_, _, t, by simp [receiveAt, idleAt, State.reset, State.resetWith, OpResult.initial], ht, by simpa using h⟩

theorem witness_DebugChangesNothing :
    (∀ a, Instr.push 0x00#8 ≠ .openSession a ∧ Instr.push 0x00#8 ≠ .status a) ∧ (0 : Nat) ≠ 10 :=
  ⟨fun _ => ⟨nofun, nofun⟩, by decide⟩

theorem witness_TestModeChangesNoCharacter :
    (receiveAt true 38 7 true 0x41#8).cfg.mode = true
      ∧ ∃ t, exec (.push 0x80#8) (receiveAt true 38 7 true 0x41#8) = .next t ∧ (t.result.events.length == 1) = true :=
  ⟨rfl, exists_of_got (by decide)⟩

/-- At the default FIRST_OFFSET, and at both ends of its range. -/
theorem witness_EveryCharacterRoundTrips :
    let s := idleAt true 4 false 0
    Reference s ∧ s.cfg.mode = true ∧ s.fstate = .idle ∧ s.prevSample = false ∧ s.outValid = false
      ∧ s.params.bitPeriod ≤ s.params.firstOffset ∧ s.params.firstOffset < 2 * s.params.bitPeriod
      ∧ paramsValid { Config.default with firstOffset := 4 } = true
      ∧ paramsValid { Config.default with firstOffset := 7 } = true :=
  ⟨⟨by decide, rfl⟩, by decide⟩

/-- V15's stream under the default offset, at the sample of its first rising edge. -/
theorem witness_DefaultOffsetAtPeriodOneReadsLate :
    let s := { idleAt true 1 false 0 with params := { Config.withPeriod 1 with firstOffset := 2 } }
    Reference s ∧ s.cfg.mode = true ∧ s.fstate = .idle ∧ s.prevSample = false ∧ s.outValid = false
      ∧ s.params.bitPeriod = 1 ∧ s.params.firstOffset = 2 :=
  ⟨⟨by decide, rfl⟩, by decide⟩

/-- The periods at both ends of the override. -/
theorem witness_ModelOffsetKeepsInstantsInTheirCells :
    1 ≤ (Config.withPeriod 1).bitPeriod ∧ (Config.withPeriod 1).firstOffset ≠ Config.defaultFirstOffset 1
      ∧ (Config.withPeriod 2).firstOffset = Config.defaultFirstOffset 2 := by decide

/-- The frame of E2 at the start of a session; PR5's second frame, whose lock edge at 60 follows an edge at 56, with
two preamble edges and the longest payload; and a test frame with the widest and the narrowest gaps. -/
theorem witness_EveryPacketRoundTrips :
    let s := idleAt false 0 true 0
    let m := idleAt false 59 false 56
    let t := { idleAt false 59 false 56 with cfg := ⟨false, true, false⟩ }
    (Reference s ∧ Reference m ∧ Reference t)
      ∧ (s.cfg.mode = false ∧ s.fstate = .idle ∧ s.outValid = false
        ∧ windowMatch s.params 1 ((s.sampleIndex : Int) + (4 : Nat) - s.lastEdgeIndex) = true
        ∧ (∀ g ∈ [4], 1 ≤ g ∧ windowMatch s.params 1 (g : Nat) = true)
        ∧ 1 ≤ 16 ∧ windowMatch s.params 4 (16 : Nat) = true
        ∧ s.params.bitPeriod ≤ s.params.firstOffset ∧ s.params.firstOffset < 2 * s.params.bitPeriod
        ∧ 1 ≤ [0xA5#8].length ∧ [0xA5#8].length ≤ s.params.maxLen
        ∧ (s.cfg.test = true → [0xA5#8].length = 2))
      ∧ (m.fstate = .idle ∧ windowMatch m.params 1 ((m.sampleIndex : Int) + (1 : Nat) - m.lastEdgeIndex) = true
        ∧ (∀ g ∈ [4, 4], 1 ≤ g ∧ windowMatch m.params 1 (g : Nat) = true)
        ∧ (List.replicate 16 0x7E#8).length ≤ m.params.maxLen)
      ∧ (t.fstate = .idle ∧ windowMatch t.params 1 ((t.sampleIndex : Int) + (0 : Nat) - t.lastEdgeIndex) = true
        ∧ (∀ g ∈ [3, 5], 1 ≤ g ∧ windowMatch t.params 1 (g : Nat) = true)
        ∧ windowMatch t.params 4 (15 : Nat) = true ∧ windowMatch t.params 4 (17 : Nat) = true
        ∧ t.cfg.test = true ∧ [0x2A#8, 0xD5#8].length = 2 ∧ 0xD5#8 = ~~~0x2A#8 ∧ 0x2A#8 ≠ ~~~0x2A#8) :=
  ⟨⟨⟨by decide, rfl⟩, ⟨by decide, rfl⟩, ⟨by decide, rfl⟩⟩, by decide, by decide, by decide⟩

/-- E1, last row: a line that stays high after a high previous sample; and one that falls. -/
theorem witness_NoRisingEdgeKeepsCharacterIdle :
    let s := idleAt true 0 true 0
    s.params.indexWidth = none ∧ s.cfg.mode = true ∧ s.fstate = .idle
      ∧ noRisingEdge s.prevSample [true, true, false, false] = true := by decide

/-- E1, second row: a 4× edge; and an edge just past the 1× window. -/
theorem witness_NoLockEdgeKeepsPacketIdle :
    let s := idleAt false 15 false 0
    let u := idleAt false 6 false 0
    s.params.indexWidth = none ∧ s.cfg.mode = false ∧ s.fstate = .idle
      ∧ noLockEdge s.params s.sampleIndex s.lastEdgeIndex s.prevSample [false, true, true] = true
      ∧ noLockEdge u.params u.sampleIndex u.lastEdgeIndex u.prevSample [true, true] = true := by decide

/-- Seven samples, and eight. -/
theorem witness_StreamPacksEightSamplesAByte :
    packSamples [false, true, true, true, true, true, true] = none
      ∧ packSamples [false, false, false, false, true, true, true, true] = some [0x0F#8] := by decide

theorem witness_AssembledProgramsLoad :
    assemble [.openSession 0x01#8, .push 0x0F#8] = .ok [0x101#11, 0x30F#11]
      ∧ 0x7FF#11 ∈ [0x101#11, 0x7FF#11] ∧ (0x7FF#11).extractLsb' 8 3 = 0b111#3 := by decide

end Sys2Proof.Tests
end

/-! PROOFS. The parameters of a build (spec/00_scope.md): which of them a model accepts, and what INDEX_WIDTH changes. -/

namespace Sys2Proof.Machine

/-! ## The windows (40_extractor.md R127) -/

/-- A window holds every interval that is no farther from its centre than one it holds. -/
theorem windowMatch_of_natAbs_le {c : Config.Params} {k : Nat} {d d' : Int}
    (h : (d' - k * c.bitPeriod).natAbs ≤ (d - k * c.bitPeriod).natAbs) (hd : windowMatch c k d = true) :
    windowMatch c k d' = true := by
  have hdev : windowDev c k d' ≤ windowDev c k d := by
    simpa only [windowDev, Int.natAbs_mul] using Nat.mul_le_mul_left _ h
  unfold windowMatch at hd ⊢
  cases hb : c.windowBounds <;> simp only [hb, decide_eq_true_eq] at hd ⊢ <;> omega

/-- Under either bound, the deviation of an interval a window holds is within the permitted one. -/
theorem windowDev_le_windowLim {c : Config.Params} {k : Nat} {d : Int} (h : windowMatch c k d = true) :
    windowDev c k d ≤ windowLim c k := by
  unfold windowMatch at h
  cases hb : c.windowBounds <;> simp only [hb, decide_eq_true_eq] at h <;> omega

/-- The relative form permits at least what the absolute form does. -/
theorem windowLim_le_relative {c : Config.Params} {k : Nat} (hk : 1 ≤ k) :
    windowLim c k ≤ c.tolNum * k * c.bitPeriod := by
  unfold windowLim
  cases c.windowForm
  · exact Nat.mul_le_mul_right _ (Nat.le_mul_of_pos_right _ hk)
  · exact Nat.le_refl _

/-- An interval `n` samples past the centre of the 1× window has the scaled deviation of `n`. -/
theorem windowDev_one_add (c : Config.Params) (n : Nat) :
    windowDev c 1 (c.bitPeriod + n : Nat) = c.tolDen * n := by
  simp only [windowDev, Int.natAbs_mul, Int.natAbs_natCast]
  congr 1
  omega

/-- How far past its centre the upper bound of the 1× window reaches, as `lastOf1xWindow` has it. -/
def reachOf1xWindow (c : Config.Params) : Nat :=
  match c.windowBounds with
  | .opened => (windowLim c 1 - 1) / c.tolDen
  | .closed => windowLim c 1 / c.tolDen

theorem lastOf1xWindow_eq (c : Config.Params) :
    lastOf1xWindow c = min (4 * c.bitPeriod) (c.bitPeriod + reachOf1xWindow c) := rfl

/-- Once the 1× window holds anything, it holds `P + n` exactly up to its reach. -/
theorem windowMatch_one_add_iff {c : Config.Params} (hden : 1 ≤ c.tolDen) {d : Int}
    (hd : windowMatch c 1 d = true) (n : Nat) :
    windowMatch c 1 (c.bitPeriod + n : Nat) = true ↔ n ≤ reachOf1xWindow c := by
  unfold windowMatch at hd ⊢
  unfold reachOf1xWindow
  cases hb : c.windowBounds <;>
    simp only [hb, decide_eq_true_eq, windowDev_one_add, Nat.le_div_iff_mul_le hden, Nat.mul_comm n] at hd ⊢
  case opened => omega

/-- The 1× window, once it holds anything, holds the interval at which the windows are asked to meet. -/
theorem windowMatch_one_lastOf1xWindow {c : Config.Params} (hden : 1 ≤ c.tolDen) {d : Int}
    (hd : windowMatch c 1 d = true) : windowMatch c 1 (lastOf1xWindow c) = true := by
  have hlast : lastOf1xWindow c = c.bitPeriod + min (3 * c.bitPeriod) (reachOf1xWindow c) := by
    rw [lastOf1xWindow_eq]; omega
  rw [hlast, windowMatch_one_add_iff hden hd]
  exact Nat.min_le_right _ _

/-- That interval is past every other interval of the 1× window, or is the centre of the 4× window. -/
theorem min_le_lastOf1xWindow {c : Config.Params} (hden : 1 ≤ c.tolDen) {d : Nat}
    (hd : windowMatch c 1 d = true) : min d (4 * c.bitPeriod) ≤ lastOf1xWindow c := by
  rw [lastOf1xWindow_eq]
  rcases Nat.le_total d c.bitPeriod with hle | hge
  · omega
  · obtain ⟨n, rfl⟩ := Nat.exists_eq_add_of_le hge
    have := (windowMatch_one_add_iff hden hd n).1 hd
    omega

/-- Disjointness asked at one interval is disjointness over every interval (log 13). -/
theorem windowsDisjoint_iff {c : Config.Params} (hden : 1 ≤ c.tolDen) :
    windowsDisjoint c = true ↔ ∀ d : Nat, ¬ (windowMatch c 1 d = true ∧ windowMatch c 4 d = true) := by
  have hask : windowsDisjoint c = true
      ↔ ¬ (windowMatch c 1 (lastOf1xWindow c) = true ∧ windowMatch c 4 (lastOf1xWindow c) = true) := by
    simp [windowsDisjoint, imp_iff_not_or]
  rw [hask]
  constructor
  · rintro hlast d ⟨h1, h4⟩
    have hle := min_le_lastOf1xWindow hden h1
    have hcentre : lastOf1xWindow c ≤ 4 * c.bitPeriod := Nat.min_le_left _ _
    exact hlast ⟨windowMatch_one_lastOf1xWindow hden h1, windowMatch_of_natAbs_le (by omega) h4⟩
  · exact fun h => h _

/-- The windows are disjoint in both forms and under both bounds where the tolerance is below 3/5: the 1× window
then ends, and the relative 4× window begins, before `1.6 P`. -/
theorem windows_disjoint_of_tolerance {c : Config.Params} (hp : 1 ≤ c.bitPeriod)
    (htol : 5 * c.tolNum < 3 * c.tolDen) (d : Int) :
    ¬ (windowMatch c 1 d = true ∧ windowMatch c 4 d = true) := by
  rintro ⟨h1, h4⟩
  obtain ⟨-, hupper⟩ := windowDev_le.1 ((windowDev_le_windowLim h1).trans (windowLim_le_relative (by decide)))
  obtain ⟨hlower, -⟩ := windowDev_le.1 ((windowDev_le_windowLim h4).trans (windowLim_le_relative (by decide)))
  have hgap : 5 * c.tolNum * c.bitPeriod < 3 * c.tolDen * c.bitPeriod := Nat.mul_lt_mul_of_pos_right htol hp
  zify at hgap
  push_cast at hupper hlower
  linarith

/-- A model's windows as signed bounds on five times the deviation. -/
theorem windowMatch_withPeriod_iff (p k : Nat) (d : Int) :
    windowMatch (Config.withPeriod p) k d = true
      ↔ -(2 * p : Int) < 5 * (d - k * p) ∧ 5 * (d - k * p) < (2 * p : Int) := by
  have hlt : windowMatch (Config.withPeriod p) k d = true ↔ windowDev (Config.withPeriod p) k d < 2 * p :=
    decide_eq_true_iff
  rw [hlt, windowDev_lt]
  rfl

/-! ## Parameters (00_scope.md R17) -/

/-- Settles O11: the check asks for disjoint windows at one interval only, and `windowsDisjoint_iff` says that this
is enough. -/
theorem parameterCheckIsExact : Obligations.ParameterCheckIsExact := by
  intro c
  simp only [paramsValid, Bool.and_eq_true, decide_eq_true_eq]
  constructor
  · rintro ⟨⟨⟨⟨⟨⟨⟨hp, hf⟩, hm⟩, hM⟩, hden⟩, hd⟩, he⟩, hw⟩
    exact ⟨hp, hf, hm, hM, (windowsDisjoint_iff hden).1 hd, hden, he, hw⟩
  · rintro ⟨hp, hf, hm, hM, hd, hden, he, hw⟩
    exact ⟨⟨⟨⟨⟨⟨⟨hp, hf⟩, hm⟩, hM⟩, hden⟩, (windowsDisjoint_iff hden).2 hd⟩, he⟩, hw⟩

theorem step_of_invalid {s : State} (h : ¬ paramsValid s.params = true) :
    step s = .refused .invalidConfiguration := if_neg h

theorem boot_of_invalid {c : Config.Params} (h : ¬ paramsValid c = true) :
    boot c = .refused .invalidConfiguration := if_neg h

/-- Settles O10: each violation contradicts a conjunct of the exact check. -/
theorem invalidConfigurationIsRefused : Obligations.InvalidConfigurationIsRefused := by
  intro s hviolated
  have hinvalid : ¬ paramsValid s.params = true := by
    intro hvalid
    obtain ⟨hp, hf, hm, hM, hdisjoint, -⟩ := (parameterCheckIsExact s.params).1 hvalid
    obtain h | h | h | h | ⟨d, h⟩ := hviolated
    · exact Nat.not_lt.2 hp h
    · exact Nat.not_lt.2 hf h
    · exact Nat.not_lt.2 hm h
    · exact Nat.not_lt.2 hM h
    · exact hdisjoint d h
  exact ⟨step_of_invalid hinvalid, boot_of_invalid hinvalid⟩

theorem modelFirstOffset_bounds {p : Nat} (hp : 1 ≤ p) :
    p ≤ Config.modelFirstOffset p ∧ Config.modelFirstOffset p < 2 * p := by
  unfold Config.modelFirstOffset Config.defaultFirstOffset
  split <;> omega

/-- Settles O12: the default tolerance 2/5 is below 3/5. -/
theorem defaultToleranceIsAlwaysAccepted : Obligations.DefaultToleranceIsAlwaysAccepted := by
  intro p f b hp
  rw [parameterCheckIsExact]
  refine ⟨hp, hp.trans (modelFirstOffset_bounds hp).1, ?_, ?_, fun d => windows_disjoint_of_tolerance hp ?_ d,
    ?_, ?_, ?_⟩ <;> simp [Config.withPeriod]

/-- Settles O57: its parameters are those of O12 at the default form and bounds. -/
theorem modelOffsetKeepsInstantsInTheirCells : Obligations.ModelOffsetKeepsInstantsInTheirCells := by
  refine ⟨fun p hp => ?_, fun d => ?_⟩
  · obtain ⟨hlo, hhi⟩ := modelFirstOffset_bounds hp
    exact ⟨defaultToleranceIsAlwaysAccepted p .absolute .opened hp, rfl, hlo, hhi, rfl⟩
  · simp only [windowMatch_withPeriod_iff]
    constructor <;> push_cast <;> omega

/-! ## Finite-width builds (00_scope.md R16) -/

/-- Each effect of an accepted bit is what its phase answers: the converse of `framePhase_next`. -/
theorem BitEffect.framePhase_eq {s u : State} (h : BitEffect s u) : framePhase s = .next u := by
  cases h with
  | lengthBit hb => rw [framePhase_length hb.le, lengthPhase_early hb.ne]
  | rejected hb hr => rw [framePhase_length hb.le, lengthPhase_rejects hb hr]
  | accepted hb hr => rw [framePhase_length hb.le, lengthPhase_accepts hb hr]
  | payloadBit hb h8 => rw [framePhase_payload hb, payloadPhase_bit h8]
  | payloadByte hb h8 hl => rw [framePhase_payload hb, payloadPhase_byte h8 hl]
  | packet hb h8 hl ht ho =>
    rw [framePhase_payload hb, payloadPhase_complete h8 hl, completeFrame_normal (s := appendByte s) ht,
      emit_empty (s := appendByte s) ho]
    rfl
  | testLine id hb h8 hl ht hp hc ho =>
    have hbytes : (appendByte s).payload = [id, s.shift] := by simp [hp]
    rw [framePhase_payload hb, payloadPhase_complete h8 hl, completeFrame_test (s := appendByte s) ht hbytes,
      if_pos (hc.trans (complement_eq id)), emit_empty (s := appendByte s) ho]
    rfl
  | integrityFail id hb h8 hl ht hp hc =>
    have hbytes : (appendByte s).payload = [id, s.shift] := by simp [hp]
    rw [framePhase_payload hb, payloadPhase_complete h8 hl, completeFrame_test (s := appendByte s) ht hbytes,
      if_neg (complement_eq id ▸ hc)]
    rfl

/-- A sample step is the effect of its row followed by the end of the step: the converse of `sampleStep_next`, which
says besides what the step does where a counter does not fit. -/
theorem SampleEffect.sampleStep_eq {v : Bool} {s u : State} (h : SampleEffect v s u) :
    sampleStep v s = finishSample v (edgeOf v s) u := by
  cases h with
  | packetIdle hm hf hw => rw [sampleStep_packet_idle hm hf, hw]; rfl
  | lock hm hf hw => rw [sampleStep_packet_idle hm hf, if_pos hw]
  | preambleQuiet hm hf he => rw [sampleStep_packet_preamble hm hf, he]; rfl
  | sync hm hf hw =>
    rw [sampleStep_packet_preamble hm hf, if_pos (edgeOf_of_window hw), if_pos hw, edgeOf_of_window hw]
    rfl
  | extend hm hf hw hw1 =>
    rw [sampleStep_packet_preamble hm hf, if_pos (edgeOf_of_window hw1), if_neg (by simp [hw]), if_pos hw1,
      edgeOf_of_window hw1]
  | lost hm hf he hw hw1 => rw [sampleStep_packet_preamble hm hf, he, hw, hw1]; rfl
  | wait hf hd =>
    cases hm : s.cfg.mode
    · rw [sampleStep_packet_receive hm hf, if_neg hd]
    · rw [sampleStep_character_receive hm hf, if_neg hd]
  | packetBit u hm hf hd hu =>
    rw [sampleStep_packet_receive hm hf, if_pos hd, execPRxBit, hu.framePhase_eq, andThen_next]
  | characterIdle hm hf hr => rw [sampleStep_character_idle hm hf, hr]; rfl
  | rise hm hf he hv => rw [sampleStep_character_idle hm hf, he, hv]; rfl
  | data hm hf hd hb => rw [sampleStep_character_receive hm hf, if_pos hd, if_neg hb]; rfl
  | stopOk hm hf hd hb hv ho =>
    rw [sampleStep_character_receive hm hf, if_pos hd, if_pos hb, hv, execCRxStopOk, emit_empty ho]
    rfl
  | stopErr hm hf hd hb hv =>
    rw [sampleStep_character_receive hm hf, if_pos hd, if_pos hb, hv]
    rfl

/-- `s` in a build of INDEX_WIDTH `o`. -/
def setIndexWidth (o : Option Nat) (s : State) : State :=
  { s with params := { s.params with indexWidth := o } }

/-- No phase of an accepted bit reads or writes INDEX_WIDTH. -/
theorem BitEffect.at_width {s u : State} (h : BitEffect s u) (o : Option Nat) :
    BitEffect (setIndexWidth o s) (setIndexWidth o u) := by
  cases h with
  | lengthBit hb => exact .lengthBit hb
  | rejected hb hr => exact .rejected hb hr
  | accepted hb hr => exact .accepted hb hr
  | payloadBit hb h8 => exact .payloadBit hb h8
  | payloadByte hb h8 hl => exact .payloadByte hb h8 hl
  | packet hb h8 hl ht ho => exact .packet hb h8 hl ht ho
  | testLine id hb h8 hl ht hp hc ho => exact .testLine id hb h8 hl ht hp hc ho
  | integrityFail id hb h8 hl ht hp hc => exact .integrityFail id hb h8 hl ht hp hc

/-- No row reads or writes INDEX_WIDTH. -/
theorem SampleEffect.at_width {v : Bool} {s u : State} (h : SampleEffect v s u) (o : Option Nat) :
    SampleEffect v (setIndexWidth o s) (setIndexWidth o u) := by
  cases h with
  | packetIdle hm hf hw => exact .packetIdle hm hf hw
  | lock hm hf hw => exact .lock hm hf hw
  | preambleQuiet hm hf he => exact .preambleQuiet hm hf he
  | sync hm hf hw => exact .sync hm hf hw
  | extend hm hf hw hw1 => exact .extend hm hf hw hw1
  | lost hm hf he hw hw1 => exact .lost hm hf he hw hw1
  | wait hf hd => exact .wait hf hd
  | packetBit u hm hf hd hu => exact .packetBit (setIndexWidth o u) hm hf hd (hu.at_width o)
  | characterIdle hm hf hr => exact .characterIdle hm hf hr
  | rise hm hf he hv => exact .rise hm hf he hv
  | data hm hf hd hb => exact .data hm hf hd hb
  | stopOk hm hf hd hb hv ho => exact .stopOk hm hf hd hb hv ho
  | stopErr hm hf hd hb hv => exact .stopErr hm hf hd hb hv

/-- Where a step answers `t` at one INDEX_WIDTH, at any other it answers `t` too or overflows, by the counters of
`t`. -/
theorem sampleStep_setIndexWidth {v : Bool} {s t : State} (h : sampleStep v s = .next t) (o : Option Nat) :
    sampleStep v (setIndexWidth o s)
      = if indexFits (setIndexWidth o t) then .next (setIndexWidth o t) else .fault .indexOverflow := by
  obtain ⟨u, hu, -, rfl⟩ := sampleStep_next h
  exact (hu.at_width o).sampleStep_eq

theorem indexFits_setIndexWidth_some {w : Nat} {t : State} :
    indexFits (setIndexWidth (some w) t) = true
      ↔ t.sampleIndex < 2 ^ w ∧ t.nextBit < 2 ^ w ∧ t.lastEdgeIndex < (2 : Int) ^ w := by
  simp [indexFits_iff, CountersFit, setIndexWidth]

/-- Settles O19: a row's effect does not read INDEX_WIDTH, so the two steps differ only in the check at their end. -/
theorem finiteWidthRefinesTheReference : Obligations.FiniteWidthRefinesTheReference := by
  intro v s t w hw href
  have hparams : t.params = { s.params with indexWidth := none } := by
    obtain ⟨u, hu, -, rfl⟩ := sampleStep_next href
    exact hu.keeps.1
  have hs : setIndexWidth (some w) (setIndexWidth none s) = s := by rw [← hw]; rfl
  have ht : setIndexWidth (some w) t = { t with params := s.params } := by
    simp only [setIndexWidth, hparams, ← hw]
  have hstep := sampleStep_setIndexWidth (s := setIndexWidth none s) href (some w)
  rw [hs] at hstep
  rw [← indexFits_setIndexWidth_some, hstep, ← ht]
  exact ⟨fun hfits => if_pos hfits, fun hover => if_neg hover⟩

end Sys2Proof.Machine

/-! PROOFS. The state (spec/10_state.md): what an instruction and a step can do, what no step changes, the reset values,
and the invariant of reachable states. -/

namespace Sys2Proof.Machine

/-! ## What an instruction can do -/

/-- A row means in `exec` what it means in a sample step. -/
theorem exec_eq_performRow {i : Instr} (h : isHostOp i = false) (s : State) : exec i s = performRow i s := by
  cases i with
  | nop | openSession | closeSession | push | pop | status | clrerr | reserved111 =>
    simp [isHostOp, encode] at h
  | _ => rfl

theorem isHostOp_decodeHostCmd (w : HostWord) : isHostOp (decodeHostCmd w) = true := by
  unfold decodeHostCmd
  split <;> rfl

theorem isHostOp_decodeStepKey (k : StepKey) : isHostOp (decodeStepKey k) = false := by
  unfold decodeStepKey rowOfFields
  split <;> repeat' split
  all_goals rfl

/-- What instruction `i` makes of `s` when it answers a next state: of a host operation the whole state, for PUSH that
of its eight sample steps, and of a row what its meaning answers. -/
inductive ExecEffect (s : State) : Instr → State → Prop where
  | nop (arg : Byte) : ExecEffect s (.nop arg) (returnResult true [] .none s)
  | openSession (cfg : Byte) : ExecEffect s (.openSession cfg)
      (returnResult true [] .none
        (clearErrors (openSessionPart { s with cfg := cfgOfByte cfg, sessionOpen := true })))
  | closeSession (arg : Byte) (ho : s.sessionOpen = true) : ExecEffect s (.closeSession arg)
      (returnResult true [⟨.sessionEnd, .none⟩] .none { s with sessionOpen := false })
  | closeRefused (arg : Byte) (ho : s.sessionOpen = false) :
      ExecEffect s (.closeSession arg) (returnResult false [] .none s)
  | push (b : Byte) {t : State} (hr : inReady s = true)
      (hu : unpack b (returnResult true [] .none s) = .next t) : ExecEffect s (.push b) t
  | pushRefused (b : Byte) (hr : inReady s = false) : ExecEffect s (.push b) (returnResult false [] .none s)
  | pop (arg : Byte) (ho : s.outValid = true) : ExecEffect s (.pop arg)
      (returnResult true [] (.unit s.outUnit) { s with outValid := false, outUnit := OutUnit.empty })
  | popEmpty (arg : Byte) (ho : s.outValid = false) :
      ExecEffect s (.pop arg) (returnResult true [] (.unit OutUnit.empty) s)
  | status (arg : Byte) :
      ExecEffect s (.status arg) (returnResult true [] (.status (statusWord s)) s)
  | clrerr (arg : Byte) : ExecEffect s (.clrerr arg) (returnResult true [] .none (clearErrors s))
  | reserved111 (arg : Byte) : ExecEffect s (.reserved111 arg) (returnResult false [] .none s)
  | row {i : Instr} {t : State} (hi : isHostOp i = false) (hr : performRow i s = .next t) : ExecEffect s i t

/-- An instruction that answers a next state does one of these. -/
theorem exec_next {i : Instr} {s t : State} (h : exec i s = .next t) : ExecEffect s i t := by
  cases i with
  | nop arg => cases h; exact .nop arg
  | openSession cfg => cases h; exact .openSession cfg
  | closeSession arg =>
    change execClose s = .next t at h
    unfold execClose at h
    split at h
    next ho => cases h; exact .closeSession arg ho
    next ho => cases h; exact .closeRefused arg (by simpa using ho)
  | push b =>
    change execPush b s = .next t at h
    unfold execPush at h
    split at h
    next hr => exact .push b hr h
    next hr => cases h; exact .pushRefused b (by simpa using hr)
  | pop arg =>
    change execPop s = .next t at h
    unfold execPop at h
    split at h
    next ho => cases h; exact .pop arg ho
    next ho => cases h; exact .popEmpty arg (by simpa using ho)
  | status arg => cases h; exact .status arg
  | clrerr arg => cases h; exact .clrerr arg
  | reserved111 arg => cases h; exact .reserved111 arg
  | _ => exact .row rfl h

/-! ## What a step can do -/

/-- The state a presented sample is stepped in: its input taken, its result record that of an accepted PUSH so far
(log 5). -/
def sampleStart (rest : List Input) (s : State) : State := returnResult true [] .none { s with input := rest }

/-- A presented sample is one sample step. -/
theorem exec_assembledKey (v : Bool) (rest : List Input) (s : State) :
    exec (decodeStepKey (assembleKey v s)) (sampleStart rest s) = sampleStep v (sampleStart rest s) :=
  exec_eq_performRow (isHostOp_decodeStepKey _) _

/-- What a step makes of `s` when it answers a next state, by the input it takes. -/
inductive StepEffect (s : State) : State → Prop where
  | hold (hi : s.input = []) : StepEffect s s
  | reset (rest : List Input) (hi : s.input = .reset :: rest) :
      StepEffect s (hardwareReset { s with input := rest })
  | command (w : HostWord) (rest : List Input) {t : State} (hi : s.input = .command w :: rest)
      (ht : ExecEffect { s with input := rest } (decodeHostCmd w) t) : StepEffect s t
  | sample (v : Bool) (rest : List Input) {t : State} (hi : s.input = .sample v :: rest)
      (ht : sampleStep v (sampleStart rest s) = .next t) : StepEffect s t

/-- A step that answers a next state has accepted parameters and does one of these. -/
theorem step_next {s t : State} (h : step s = .next t) : paramsValid s.params = true ∧ StepEffect s t := by
  by_cases hvalid : paramsValid s.params = true
  · refine ⟨hvalid, ?_⟩
    rw [step, if_pos hvalid, fetch] at h
    cases hi : s.input with
    | nil => rw [hi] at h; cases h; exact .hold hi
    | cons x rest =>
      rw [hi] at h
      cases x with
      | command w => exact .command w rest hi (exec_next h)
      | reset => cases h; exact .reset rest hi
      | sample v => exact .sample v rest hi ((exec_assembledKey v rest s).symm.trans h)
  · rw [step_of_invalid hvalid] at h; cases h

/-- A presented reset, with accepted parameters. -/
theorem step_reset {s : State} {rest : List Input} (hvalid : paramsValid s.params = true)
    (hi : s.input = .reset :: rest) : step s = .next (hardwareReset { s with input := rest }) := by
  rw [step, if_pos hvalid, fetch, hi]

/-! ## What no row writes -/

/-- `t` has the parameters, the configuration, the session bit and the input list of `s`. -/
structure SameSettings (s t : State) : Prop where
  params : t.params = s.params
  cfg : t.cfg = s.cfg
  sessionOpen : t.sessionOpen = s.sessionOpen
  input : t.input = s.input

/-- No row writes these, whatever state it is given. -/
theorem performRow_sameSettings {i : Instr} {s t : State} (h : performRow i s = .next t) : SameSettings s t := by
  cases i with
  | pRxBit e v l w1 w4 =>
    obtain ⟨u, hu, -, rfl⟩ := execPRxBit_next h
    obtain ⟨hparams, -, -, -, -, hcfg, hinput, hopen, -⟩ := (framePhase_next hu).keeps
    exact ⟨hparams, hcfg, hopen, hinput⟩
  | cRxStopOk e w1 w4 =>
    obtain ⟨u, hu, hend⟩ := andThen_eq_next.1 h
    obtain ⟨-, rfl⟩ := emit_eq_next.1 hu
    obtain ⟨-, rfl⟩ := finishSample_eq_next.1 hend
    constructor <;> simp
  | stepkeyReserved | stepkeyReservedCharPre => cases h
  | nop | openSession | closeSession | push | pop | status | clrerr | reserved111 => cases h
  | _ =>
    obtain ⟨-, rfl⟩ := finishSample_eq_next.1 h
    constructor <;> simp

theorem sampleStep_sameSettings {v : Bool} {s t : State} (h : sampleStep v s = .next t) : SameSettings s t :=
  performRow_sameSettings h

theorem SameSettings.trans {s t u : State} (h : SameSettings s t) (h' : SameSettings t u) : SameSettings s u :=
  ⟨h'.params.trans h.params, h'.cfg.trans h.cfg, h'.sessionOpen.trans h.sessionOpen, h'.input.trans h.input⟩

theorem unpack_sameSettings {b : Byte} {s t : State} (h : unpack b s = .next t) : SameSettings s t :=
  runSamples_keeps (P := SameSettings s) (fun _ _ _ hu hstep => hu.trans (sampleStep_sameSettings hstep))
    ⟨rfl, rfl, rfl, rfl⟩ h

theorem ExecEffect.params {i : Instr} {s t : State} (h : ExecEffect s i t) : t.params = s.params := by
  cases h with
  | push b _ hu => exact (unpack_sameSettings hu).params
  | row _ hr => exact (performRow_sameSettings hr).params
  | _ => rfl

/-- Settles O13: no instruction writes the parameters, and hardware reset takes them over. -/
theorem parametersNeverChange : Obligations.ParametersNeverChange := by
  intro s t h
  obtain ⟨-, h⟩ := step_next h
  cases h with
  | hold => rfl
  | reset => rfl
  | command w rest _ ht => exact ht.params
  | sample v rest _ ht => exact (sampleStep_sameSettings ht).params

/-- Settles O43: of the host operations only OPEN names the configuration, and no row, in PUSH or alone, writes it. -/
theorem onlyOpenWritesTheConfiguration : Obligations.OnlyOpenWritesTheConfiguration := by
  intro i s t hopen h
  cases exec_next h with
  | openSession cfg => exact absurd rfl (hopen cfg)
  | push b _ hu => exact (unpack_sameSettings hu).cfg
  | row _ hr => exact (performRow_sameSettings hr).cfg
  | _ => rfl

/-! ## The reset values (10_state.md R42, R43) -/

theorem boot_of_valid {c : Config.Params} (h : paramsValid c = true) : boot c = .next (State.resetWith c) := if_pos h

/-- Settles O7: the step answers hardware reset, which keeps the parameters and the rest of the input. -/
theorem resetInputGivesResetValues : Obligations.ResetInputGivesResetValues := by
  intro s rest hvalid hi
  refine ⟨_, step_reset hvalid hi, ?_⟩
  simp [hardwareReset_eq, State.resetWith, OutUnit.empty, OpResult.initial]

/-- Settles O8: at accepted parameters boot is hardware reset. -/
theorem bootGivesTheResetValues : Obligations.BootGivesTheResetValues := by
  intro c hvalid
  refine ⟨_, boot_of_valid hvalid, ?_⟩
  simp [State.resetWith, OutUnit.empty]

/-! ## The invariant of the session part, by framing state (10_state.md R41) -/

/-- Clause (g), as `SessionInv.lastEdge` states it. -/
def LastEdgeInv (s : State) : Prop :=
  (s.lastEdgeIndex < s.sampleIndex ∨ s.lastEdgeIndex = s.params.initLastEdge)
    ∧ s.params.initLastEdge ≤ s.sampleIndex

/-- The frame fields at their cleared values, which clause (b) asks for outside RECEIVE. -/
def FrameCleared (s : State) : Prop := s.bitsReceived = 0 ∧ s.shift = 0 ∧ s.length = 0 ∧ s.payload = []

theorem SessionInv.of_idle {s : State} (hf : s.fstate = .idle) (hclear : FrameCleared s) (hg : LastEdgeInv s) :
    SessionInv s := by
  constructor <;> simp_all [FrameCleared, LastEdgeInv]

theorem SessionInv.of_preamble {s : State} (hf : s.fstate = .preamble) (hm : s.cfg.mode = false)
    (hclear : FrameCleared s) (hg : LastEdgeInv s) : SessionInv s := by
  constructor <;> simp_all [FrameCleared, LastEdgeInv]

section Receive

variable {s : State} (hf : s.fstate = .receive) (hi : s.sampleIndex ≤ s.nextBit) (hg : LastEdgeInv s)
include hf hi hg

/-- In RECEIVE, a packet whose length byte is not complete. -/
theorem SessionInv.of_lengthBits (hm : s.cfg.mode = false) (hb : s.bitsReceived < 8) (hl : s.length = 0)
    (hp : s.payload = []) (hs : s.shift.toNat < 2 ^ s.bitsReceived) : SessionInv s := by
  constructor <;> simp_all [LastEdgeInv]

/-- In RECEIVE, a packet whose length byte is stored. -/
theorem SessionInv.of_payloadBits (hm : s.cfg.mode = false) (hb : 8 ≤ s.bitsReceived) (hl : 1 ≤ s.length)
    (hmax : s.length ≤ s.params.maxLen) (htest : s.cfg.test = true → s.length = 2)
    (hp : s.payload.length = (s.bitsReceived - 8) / 8) (hlt : (s.bitsReceived - 8) / 8 < s.length)
    (hs : s.shift.toNat < 2 ^ ((s.bitsReceived - 8) % 8)) : SessionInv s := by
  have hb' : ¬ s.bitsReceived < 8 := Nat.not_lt.2 hb
  constructor <;> simp_all [LastEdgeInv]

/-- In RECEIVE, a character. -/
theorem SessionInv.of_characterBits (hm : s.cfg.mode = true) (hb : s.bitsReceived ≤ 7)
    (hs : s.shift.toNat < 2 ^ s.bitsReceived) (hl : s.length = 0) (hp : s.payload = []) : SessionInv s := by
  constructor <;> simp_all [LastEdgeInv]

end Receive

/-! ## What a sample step does to the session part

Where an update leaves every field a clause reads, the clauses carry over by `{ h with }`. -/

theorem one_le_decodedLength (b : Byte) : 1 ≤ decodedLength b := by
  unfold decodedLength
  split
  next => decide
  next h =>
    have : b.toNat ≠ 0 := fun h0 => h (BitVec.eq_of_toNat_eq h0)
    omega

/-- An accepted bit keeps the invariant of a packet in RECEIVE. -/
theorem BitEffect.sessionInv {b : Bool} {s u : State} (h : SessionInv s) (hm : s.cfg.mode = false)
    (hf : s.fstate = .receive) (hu : BitEffect (acceptBit b s) u) : SessionInv u := by
  have hi : s.sampleIndex ≤ s.nextBit := h.schedule hf
  have hlength := h.packetLength hf hm
  have hpayload := h.packetPayload hf hm
  have htest := h.testLength hf hm
  cases hu with
  | lengthBit hb =>
    simp only [acceptBit_bitsReceived] at hb
    obtain ⟨hl, hp, hs⟩ := hlength (by omega)
    exact .of_lengthBits hf hi h.lastEdge hm hb hl hp (shiftIn_toNat_lt b hs)
  | rejected => exact .of_idle rfl ⟨rfl, rfl, rfl, rfl⟩ h.lastEdge
  | accepted hb hr =>
    simp only [acceptBit_bitsReceived] at hb
    obtain ⟨-, hp, -⟩ := hlength (by omega)
    obtain ⟨hmax, hlen⟩ := not_or.1 (lengthRejected_eq_false.1 hr)
    have hpos := one_le_decodedLength (acceptBit b s).shift
    exact .of_payloadBits hf hi h.lastEdge hm (by simp [hb]) hpos (Nat.not_lt.1 hmax)
      (fun ht => not_not.1 fun hne => hlen ⟨ht, hne⟩) (by simp [hp, hb])
      (by simpa [hb] using Nat.succ_le_iff.1 hpos) (by simp [hb])
  | payloadBit hb h8 =>
    simp only [acceptBit_bitsReceived] at hb h8
    obtain ⟨hpos, hmax, hp, hlt, hs⟩ := hpayload (by omega)
    have hdiv : (s.bitsReceived + 1 - 8) / 8 = (s.bitsReceived - 8) / 8 := by omega
    have hmod : (s.bitsReceived + 1 - 8) % 8 = (s.bitsReceived - 8) % 8 + 1 := by omega
    exact .of_payloadBits hf hi h.lastEdge hm hb.le hpos hmax (htest (by omega))
      (hp.trans hdiv.symm) (hdiv.trans_lt hlt) (hmod ▸ shiftIn_toNat_lt b hs)
  | payloadByte hb h8 hl =>
    simp only [acceptBit_bitsReceived, acceptBit_payload, acceptBit_length] at hb h8 hl
    obtain ⟨hpos, hmax, hp, hlt, -⟩ := hpayload (by omega)
    have hcount : s.payload.length + 1 = (s.bitsReceived + 1 - 8) / 8 := by omega
    have hmore : (s.bitsReceived + 1 - 8) / 8 < s.length := by omega
    exact .of_payloadBits hf hi h.lastEdge hm hb.le hpos hmax (htest (by omega)) (by simpa using hcount) hmore
      (by simp)
  | packet | testLine | integrityFail => exact .of_idle rfl ⟨rfl, rfl, rfl, rfl⟩ h.lastEdge

theorem SessionInv.advanceSchedule {s : State} (h : SessionInv s) : SessionInv (advanceSchedule s) :=
  { h with schedule := fun hf => (h.schedule hf).trans (Nat.le_add_right _ _) }

/-- A row keeps the invariant of the session part. -/
theorem SampleEffect.sessionInv {v : Bool} {s u : State} (h : SessionInv s) (hu : SampleEffect v s u) :
    SessionInv u := by
  cases hu with
  | packetIdle | preambleQuiet | extend | wait | characterIdle => exact h
  | lock hm hf => exact .of_preamble rfl hm (h.clearOutside (by simp [hf])) h.lastEdge
  | sync hm =>
    exact .of_lengthBits rfl (Nat.le_add_right _ _) h.lastEdge hm (by simp) rfl rfl (by simp)
  | lost hm hf => exact .of_idle rfl (h.clearOutside (by simp [hf])) h.lastEdge
  | packetBit u hm hf hd hbit => exact (hbit.sessionInv h hm hf).advanceSchedule
  | rise hm hf =>
    obtain ⟨-, -, hl, hp⟩ := h.clearOutside (by simp [hf])
    exact .of_characterBits rfl (Nat.le_add_right _ _) h.lastEdge hm (by simp) (by simp) hl hp
  | data hm hf hd hb =>
    obtain ⟨hle, hs⟩ := h.characterBits hf hm
    obtain ⟨hl, hp⟩ := h.characterUnused hf hm
    exact (SessionInv.of_characterBits (s := acceptBit v s) hf (h.schedule hf) h.lastEdge hm
      (by simp only [acceptBit_bitsReceived]; omega) (shiftIn_toNat_lt v hs) hl hp).advanceSchedule
  | stopOk hm hf | stopErr hm hf =>
    obtain ⟨hl, hp⟩ := h.characterUnused hf hm
    exact .of_idle rfl ⟨rfl, rfl, hl, hp⟩ h.lastEdge

/-- A row that stays in RECEIVE or enters it leaves the next instant after the current sample. -/
theorem SampleEffect.schedule_ahead {v : Bool} {s u : State} (h : SessionInv s)
    (hvalid : paramsValid s.params = true) (hu : SampleEffect v s u) (hf' : u.fstate = .receive) :
    u.sampleIndex < u.nextBit := by
  obtain ⟨hperiod, hoffset, -⟩ := (parameterCheckIsExact s.params).1 hvalid
  cases hu with
  | packetIdle _ hf | preambleQuiet _ hf | extend _ hf | characterIdle _ hf => simp [hf] at hf'
  | lock | lost | stopOk | stopErr => simp at hf'
  | wait hf hd => exact lt_of_le_of_ne (h.schedule hf) hd
  | sync | rise => exact Nat.lt_add_of_pos_right hoffset
  | data _ _ hd => exact hd.trans_lt (Nat.lt_add_of_pos_right hperiod)
  | packetBit u _ hf hd hbit =>
    obtain ⟨hparams, hindex, hnext, -⟩ := hbit.keeps
    have hstart : u.sampleIndex = u.nextBit := hindex.trans (hd.trans hnext.symm)
    exact hstart.trans_lt (Nat.lt_add_of_pos_right (hparams ▸ hperiod))

/-- The extractor update keeps the invariant where no instant is passed over. -/
theorem SessionInv.extractorUpdate {v e : Bool} {s : State} (h : SessionInv s)
    (hahead : s.fstate = .receive → s.sampleIndex < s.nextBit) : SessionInv (extractorUpdate v e s) :=
  { h with
    schedule := hahead
    lastEdge := by
      obtain ⟨hedge, hinit⟩ := h.lastEdge
      simp only [extractorUpdate_lastEdgeIndex, extractorUpdate_sampleIndex, extractorUpdate_params]
      split <;> omega }

/-! ## The output register (10_state.md R34) -/

theorem low7_msb (b : Byte) : (low7 b).getLsbD 7 = false := by revert b; decide

theorem testLineBytes_length (id : Byte) :
    2 ≤ (testLineBytes id).length ∧ (testLineBytes id).length ≤ 4 := by
  unfold testLineBytes decimalDigits
  split
  · simp
  · split <;> simp

section Pending

variable {s : State} (hv : s.outValid = true)
include hv

theorem OutputInv.of_packet {bytes : List Byte} (hu : s.outUnit = packetUnit bytes) (hpos : 1 ≤ bytes.length)
    (hmax : bytes.length ≤ s.params.maxLen) : OutputInv s := by
  constructor <;> simp_all [packetUnit]

theorem OutputInv.of_char {b : Byte} (hu : s.outUnit = charUnit b) : OutputInv s := by
  have hb := low7_msb b
  constructor <;> simp_all [charUnit]

theorem OutputInv.of_testLine {id : Byte} (hu : s.outUnit = testLineUnit id) : OutputInv s := by
  have hlen := testLineBytes_length id
  constructor <;> simp_all [testLineUnit]

end Pending

/-- An accepted bit leaves the output register as it was or puts a unit there. -/
theorem BitEffect.outputInv {b : Bool} {s u : State} (h : Inv s) (hm : s.cfg.mode = false)
    (hf : s.fstate = .receive) (hu : BitEffect (acceptBit b s) u) : OutputInv u := by
  cases hu with
  | lengthBit | rejected | accepted | payloadBit | payloadByte | integrityFail => exact { h.output with }
  | packet hb h8 hl =>
    simp only [acceptBit_bitsReceived, acceptBit_payload, acceptBit_length] at hb hl
    obtain ⟨hpos, hmax, -⟩ := h.session.packetPayload hf hm (by omega)
    exact .of_packet rfl rfl (by simp) (by simpa [hl] using hmax)
  | testLine id => exact .of_testLine rfl rfl

/-- A row leaves the output register as it was or puts a unit there. -/
theorem SampleEffect.outputInv {v : Bool} {s u : State} (h : Inv s) (hu : SampleEffect v s u) : OutputInv u := by
  cases hu with
  | packetBit u hm hf _ hbit => exact { hbit.outputInv h hm hf with }
  | stopOk => exact .of_char rfl rfl
  | _ => exact { h.output with }

/-! ## Every step keeps the invariant -/

theorem sampleStep_inv {v : Bool} {s t : State} (h : Inv s) (hvalid : paramsValid s.params = true)
    (hstep : sampleStep v s = .next t) : Inv t := by
  obtain ⟨u, hu, -, rfl⟩ := sampleStep_next hstep
  exact ⟨(hu.sessionInv h.session).extractorUpdate (hu.schedule_ahead h.session hvalid), { hu.outputInv h with }⟩

theorem unpack_inv {b : Byte} {s t : State} (h : Inv s) (hvalid : paramsValid s.params = true)
    (hu : unpack b s = .next t) : Inv t := by
  refine (runSamples_keeps (P := fun u => Inv u ∧ paramsValid u.params = true) ?_ ⟨h, hvalid⟩ hu).1
  rintro v u w ⟨hinv, hval⟩ hstep
  exact ⟨sampleStep_inv hinv hval hstep, (sampleStep_sameSettings hstep).params ▸ hval⟩

theorem Inv.returnResult {s : State} (h : Inv s) (a : Bool) (es : List Event) (d : ResultData) :
    Inv (returnResult a es d s) := ⟨{ h.session with }, { h.output with }⟩

theorem Inv.takeInput {s : State} (h : Inv s) (rest : List Input) : Inv { s with input := rest } :=
  ⟨{ h.session with }, { h.output with }⟩

theorem OutputInv.of_empty {s : State} (hv : s.outValid = false) (hu : s.outUnit = OutUnit.empty) :
    OutputInv s := by
  constructor <;> simp_all [OutUnit.empty]

/-- The session-open values meet the invariant where INIT_LAST_EDGE is not past the first sample (00_scope.md R15). -/
theorem openSessionPart_inv {s : State} (h : s.params.initLastEdge ≤ 0) : SessionInv (openSessionPart s) :=
  .of_idle rfl ⟨rfl, rfl, rfl, rfl⟩ ⟨.inr rfl, h⟩

theorem initLastEdge_nonpos {c : Config.Params} (h : paramsValid c = true) : c.initLastEdge ≤ 0 := by
  obtain ⟨-, -, -, -, -, -, hedge, -⟩ := (parameterCheckIsExact c).1 h
  exact hedge

theorem resetWith_inv {c : Config.Params} (h : paramsValid c = true) : Inv (State.resetWith c) :=
  ⟨.of_idle rfl ⟨rfl, rfl, rfl, rfl⟩ ⟨.inr rfl, initLastEdge_nonpos h⟩, .of_empty rfl rfl⟩

/-- A host operation keeps the invariant. -/
theorem ExecEffect.inv {i : Instr} {s t : State} (h : Inv s) (hvalid : paramsValid s.params = true)
    (hhost : isHostOp i = true) (ht : ExecEffect s i t) : Inv t := by
  cases ht with
  | nop | status | reserved111 | closeRefused | pushRefused | popEmpty => exact h.returnResult _ _ _
  | clrerr | closeSession => exact ⟨{ h.session with }, { h.output with }⟩
  | openSession cfg =>
    have hopen := openSessionPart_inv (s := { s with cfg := cfgOfByte cfg, sessionOpen := true })
      (initLastEdge_nonpos hvalid)
    exact ⟨{ hopen with }, { h.output with }⟩
  | push b _ hu => exact unpack_inv (h.returnResult true [] .none) hvalid hu
  | pop => exact ⟨{ h.session with }, .of_empty rfl rfl⟩
  | row hi => rw [hhost] at hi; cases hi

/-- Settles O41: by the input the step takes; a host operation and a sample step each keep the invariant, and hardware
reset makes it hold. -/
theorem everyStepKeepsTheInvariant : Obligations.EveryStepKeepsTheInvariant := by
  intro s t h hstep
  obtain ⟨hvalid, hstep⟩ := step_next hstep
  cases hstep with
  | hold => exact h
  | reset rest => exact (resetWith_inv hvalid).takeInput rest
  | command w rest _ ht => exact ht.inv (h.takeInput rest) hvalid (isHostOp_decodeHostCmd w)
  | sample v rest _ ht => exact sampleStep_inv ((h.takeInput rest).returnResult _ _ _) hvalid ht

/-- Settles O42: the parameters of `State.reset` are accepted ones. -/
theorem resetMeetsTheInvariant : Obligations.ResetMeetsTheInvariant :=
  ⟨resetWith_inv (by decide), fun _ hvalid => ⟨boot_of_valid hvalid, resetWith_inv hvalid⟩⟩

end Sys2Proof.Machine

/-! PROOFS. Encoding (spec/30_encoding.md): decoding and encoding are inverse, and each word has one row of the opcode
table. -/

namespace Sys2Proof

/-! ## Words as their fields -/

/-- A step key is the word of its fields. -/
theorem keyWord_fields (k : StepKey) :
    keyWord (k.getLsbD 8) (k.extractLsb' 6 2) (k.getLsbD 5) (k.getLsbD 4) (k.getLsbD 3) (k.getLsbD 2)
      (k.getLsbD 1) (k.getLsbD 0) = k := by
  revert k; decide

theorem keyWord_stateCode (m : Bool) (st : BitVec 2) (e v d l w1 w4 : Bool) :
    (keyWord m st e v d l w1 w4).extractLsb' 6 2 = st := by
  revert m st e v d l w1 w4; decide

/-- A host command word is the word of its OP and its ARG. -/
theorem hostWord_fields (w : HostWord) : hostWord (w.extractLsb' 8 3) (hostArg w) = w := by
  ext n hn
  rw [hostWord_getElem]
  split
  next => simp [hostArg, BitVec.getLsbD_eq_getElem hn]
  next h => simp [BitVec.getLsbD_eq_getElem hn, show 8 + (n - 8) = n by omega]

/-! ## Decoding and encoding are inverse -/

/-- Settles O2: the fields of an encoding are read back, and select the constructor whose row fixes them. -/
theorem decodeOfEncodeIsTheInstruction : Obligations.DecodeOfEncodeIsTheInstruction := by
  intro i
  cases i with
  | nop a | openSession a | closeSession a | push a | pop a | status a | clrerr a | reserved111 a =>
    simp [encode, decode, decodeHostCmd]
  | _ => simp [encode, decode, rowOfFields]

/-- The row selected by the fields of a key is encoded as that key. -/
theorem encode_rowOfFields (m : Bool) (st : BitVec 2) (e v d l w1 w4 : Bool) :
    encode (rowOfFields m st[1] st[0] e v d l w1 w4) = .stepKey (keyWord m st e v d l w1 w4) := by
  revert m st e v d l w1 w4; decide

theorem opCode_cases (op : BitVec 3) :
    op = 0 ∨ op = 1 ∨ op = 2 ∨ op = 3 ∨ op = 4 ∨ op = 5 ∨ op = 6 ∨ op = 7 := by
  revert op; decide

/-- Every OP code is that of an operation. -/
theorem exists_encode_eq_hostWord (op : BitVec 3) (a : Byte) : ∃ i, encode i = .hostCmd (hostWord op a) := by
  rcases opCode_cases op with rfl | rfl | rfl | rfl | rfl | rfl | rfl | rfl
  · exact ⟨.nop a, rfl⟩
  · exact ⟨.openSession a, rfl⟩
  · exact ⟨.closeSession a, rfl⟩
  · exact ⟨.push a, rfl⟩
  · exact ⟨.pop a, rfl⟩
  · exact ⟨.status a, rfl⟩
  · exact ⟨.clrerr a, rfl⟩
  · exact ⟨.reserved111 a, rfl⟩

/-- Every word is the word of an instruction. -/
theorem encode_surjective : Function.Surjective encode
  | .hostCmd w => hostWord_fields w ▸ exists_encode_eq_hostWord _ _
  | .stepKey k => ⟨_, (encode_rowOfFields ..).trans (congrArg _ (keyWord_fields k))⟩

/-- Settles O3: every word is an encoding, which O2 decodes to its instruction. -/
theorem encodeOfDecodeIsTheWord : Obligations.EncodeOfDecodeIsTheWord := by
  intro w
  obtain ⟨i, rfl⟩ := encode_surjective w
  rw [decodeOfEncodeIsTheInstruction]

/-! ## The words of 95_test_vectors.md -/

/-- Settles O1: each number is decoded at its width. -/
theorem specWordsDecodeAsWritten : Obligations.SpecWordsDecodeAsWritten := by
  unfold Obligations.SpecWordsDecodeAsWritten
  decide

/-! ## The opcode table -/

/-- Every instruction's word has the fixed bits of its row. -/
theorem tableRow_matches_encode (i : Instr) : (tableRow i).matches (encode i) = true := by
  cases i
  case nop => exact Laws.EncodesItsRow.nop ..
  case openSession => exact Laws.EncodesItsRow.openSession ..
  case closeSession => exact Laws.EncodesItsRow.closeSession ..
  case push => exact Laws.EncodesItsRow.push ..
  case pop => exact Laws.EncodesItsRow.pop ..
  case status => exact Laws.EncodesItsRow.status ..
  case clrerr => exact Laws.EncodesItsRow.clrerr ..
  case reserved111 => exact Laws.EncodesItsRow.reserved111 ..
  case pIdleQuiet => exact Laws.EncodesItsRow.pIdleQuiet ..
  case pIdleEdgeSync1 => exact Laws.EncodesItsRow.pIdleEdgeSync1 ..
  case pIdleEdgeNoise => exact Laws.EncodesItsRow.pIdleEdgeNoise ..
  case pPreQuiet => exact Laws.EncodesItsRow.pPreQuiet ..
  case pPreEdgeStart => exact Laws.EncodesItsRow.pPreEdgeStart ..
  case pPreEdgeExtend => exact Laws.EncodesItsRow.pPreEdgeExtend ..
  case pPreEdgeLost => exact Laws.EncodesItsRow.pPreEdgeLost ..
  case pRxWait => exact Laws.EncodesItsRow.pRxWait ..
  case pRxBit => exact Laws.EncodesItsRow.pRxBit ..
  case cIdleQuiet => exact Laws.EncodesItsRow.cIdleQuiet ..
  case cIdleRise => exact Laws.EncodesItsRow.cIdleRise ..
  case cIdleFall => exact Laws.EncodesItsRow.cIdleFall ..
  case cRxWait => exact Laws.EncodesItsRow.cRxWait ..
  case cRxData => exact Laws.EncodesItsRow.cRxData ..
  case cRxStopOk => exact Laws.EncodesItsRow.cRxStopOk ..
  case cRxStopErr => exact Laws.EncodesItsRow.cRxStopErr ..
  case stepkeyReserved => exact Laws.EncodesItsRow.stepkeyReserved ..
  case stepkeyReservedCharPre => exact Laws.EncodesItsRow.stepkeyReservedCharPre ..

/-- A word has the fixed bits of the row of the instruction it decodes to. -/
theorem tableRow_decode_matches (w : MachineWord) : (tableRow (decode w)).matches w = true := by
  have h := tableRow_matches_encode (decode w)
  rwa [encodeOfDecodeIsTheWord] at h

/-- The format of a word. -/
def MachineWord.format : MachineWord → Format
  | .hostCmd _ => .hostCmd
  | .stepKey _ => .stepKey

/-- A word as the number it is in its format. -/
def MachineWord.number : MachineWord → Nat
  | .hostCmd w => w.toNat
  | .stepKey k => k.toNat

theorem TableRow.matches_iff {r : TableRow} {w : MachineWord} :
    r.matches w = true ↔ r.format = w.format ∧ w.number &&& r.mask = r.pattern := by
  cases w <;> simp [TableRow.matches, MachineWord.format, MachineWord.number]

/-- Whether two rows are of one format and fix their common bits at the same values. -/
def TableRow.agree (r r' : TableRow) : Bool :=
  r.format == r'.format && r.pattern &&& r'.mask == r'.pattern &&& r.mask

/-- Rows that one word matches agree. -/
theorem TableRow.agree_of_matches {r r' : TableRow} {w : MachineWord} (h : r.matches w = true)
    (h' : r'.matches w = true) : r.agree r' = true := by
  obtain ⟨hf, hp⟩ := matches_iff.1 h
  obtain ⟨hf', hp'⟩ := matches_iff.1 h'
  simp only [agree, Bool.and_eq_true, beq_iff_eq]
  refine ⟨hf.trans hf'.symm, ?_⟩
  rw [← hp, ← hp', Nat.and_assoc, Nat.and_comm r.mask, Nat.and_assoc]

/-- The 26 rows of the opcode table. -/
def tableRows : List TableRow := hostRows ++ transitionRows ++ reservedRows

theorem tableRows_nodup : tableRows.Nodup := by decide

/-- No two rows of the table agree. -/
theorem eq_of_agree : ∀ r ∈ tableRows, ∀ r' ∈ tableRows, r.agree r' = true → r = r' := by decide

theorem tableRow_mem (i : Instr) : tableRow i ∈ tableRows := by
  unfold tableRow; split <;> decide

/-- Of rows of the table, those a word matches are the one of the instruction it decodes to, if it is among them. -/
theorem filter_matches_eq {rows : List TableRow} (hrows : rows.Sublist tableRows) (w : MachineWord) :
    rows.filter (fun r => r.matches w) = if tableRow (decode w) ∈ rows then [tableRow (decode w)] else [] := by
  have hone : ∀ r ∈ rows, r.matches w = (r == tableRow (decode w)) := by
    intro r hr
    rw [Bool.eq_iff_iff, beq_iff_eq]
    constructor
    · exact fun h => eq_of_agree r (hrows.subset hr) _ (tableRow_mem _)
        (TableRow.agree_of_matches h (tableRow_decode_matches w))
    · rintro rfl
      exact tableRow_decode_matches w
  rw [List.filter_congr hone, List.filter_beq]
  split
  next h => rw [List.count_eq_one_of_mem (tableRows_nodup.sublist hrows) h]; rfl
  next h => rw [List.count_eq_zero_of_not_mem h]; rfl

/-- A reserved key is of a reserved row, any other of a transition row. -/
theorem tableRow_decodeStepKey_mem_transitionRows (k : StepKey) :
    tableRow (decodeStepKey k) ∈ transitionRows ↔ Machine.keyReserved k = false := by
  revert k; decide

/-- The keys that R94 and R95 leave are the well-formed ones. -/
theorem wellFormed_decodeStepKey (k : StepKey) :
    (decodeStepKey k).wellFormed = (Machine.keyConsistent k && !Machine.keyReserved k) := by
  revert k; decide

/-- Settles O4: no two rows agree on the bits they both fix, so a word matches only its own. -/
theorem everyWordMatchesOneRow : Obligations.EveryWordMatchesOneRow := by
  refine ⟨fun w => ?_, fun k => ⟨?_, wellFormed_decodeStepKey k⟩⟩
  · exact (filter_matches_eq (.refl _) w).trans (if_pos (tableRow_mem _))
  · have htransition : transitionRows.Sublist tableRows :=
      (List.sublist_append_right ..).trans (List.sublist_append_left ..)
    rw [filter_matches_eq htransition, decode]
    cases h : Machine.keyReserved k <;> simp [tableRow_decodeStepKey_mem_transitionRows, h]

end Sys2Proof

/-! PROOFS. The step key a sample step assembles (spec/30_encoding.md R93 to R95): its fields, that a reachable state
assembles no inconsistent one, and that a key placed for the next step is assembled by it. -/

namespace Sys2Proof.Machine

/-! ## The fields of an assembled key -/

theorem exists_code_eq (c : BitVec 2) : ∃ f : FState, c = f.code := by
  have h : ∀ c : BitVec 2, c = (FState.ofCode (c.getLsbD 1) (c.getLsbD 0)).code := by decide
  exact ⟨_, h c⟩

/-- Every step key is assembled from some fields. -/
theorem exists_keyWord (k : StepKey) : ∃ m f e v d l w1 w4, k = keyWord m (FState.code f) e v d l w1 w4 := by
  obtain ⟨f, hf⟩ := exists_code_eq (k.extractLsb' 6 2)
  exact ⟨_, f, _, _, _, _, _, _, hf ▸ (keyWord_fields k).symm⟩

/-- Settles O14: a key's row means in `exec` what it means in a sample step, and each field is read back from its place
in the key. -/
theorem sampleStepIsExecOfItsKey : Obligations.SampleStepIsExecOfItsKey := by
  intro v s
  refine ⟨(exec_eq_performRow (isHostOp_decodeStepKey _) s).symm, ?_, keyWord_stateCode .., ?_, ?_, ?_, ?_, ?_, ?_⟩
  all_goals simp [assembleKey, edgeOf, dueOf, stopOf, windowOf, intervalOf, beq_eq_decide]

/-! ## Consistent keys -/

/-- The relations of 30_encoding.md R94 on the fields of a key. -/
theorem keyConsistent_keyWord_iff (m : Bool) (f : FState) (e v d l w1 w4 : Bool) :
    keyConsistent (keyWord m f.code e v d l w1 w4) = true
      ↔ (d = true → f = .receive) ∧ (w1 = true → e = true) ∧ (w4 = true → e = true)
        ∧ ¬ (w1 = true ∧ w4 = true) ∧ (l = true → m = true ∧ f = .receive) := by
  cases f <;> simp [keyConsistent] <;> grind

/-- The reserved keys of 30_encoding.md R95 by their fields. -/
theorem keyReserved_keyWord_iff {m : Bool} {f : FState} {e v d l w1 w4 : Bool} :
    keyReserved (keyWord m f.code e v d l w1 w4) = true ↔ f = .code11 ∨ (m = true ∧ f = .preamble) := by
  cases f <;> revert m e v d l w1 w4 <;> decide

/-- In a state that meets the invariant the last edge is not after the current sample. -/
theorem exists_intervalOf_eq {s : State} (h : SessionInv s) : ∃ d : Nat, intervalOf s = d := by
  obtain ⟨hedge, hinit⟩ := h.lastEdge
  exact Int.eq_ofNat_of_zero_le (by unfold intervalOf; omega)

theorem SessionInv.keyConsistent {s : State} (h : SessionInv s) (hvalid : paramsValid s.params = true) (v : Bool) :
    keyConsistent (assembleKey v s) = true := by
  have hdue : dueOf s = true → s.fstate = .receive := by simp +contextual [dueOf]
  have hstop : stopOf s = true → s.cfg.mode = true ∧ s.fstate = .receive := by
    intro hstop
    simp only [stopOf, Bool.and_eq_true, beq_iff_eq, dataBits_eq] at hstop
    refine ⟨hstop.1, by_contra fun hf => ?_⟩
    have := (h.clearOutside hf).1
    omega
  have hwindows : ¬ (windowOf 1 v s = true ∧ windowOf 4 v s = true) := by
    obtain ⟨d, hd⟩ := exists_intervalOf_eq h
    obtain ⟨-, -, -, -, hdisjoint, -⟩ := (parameterCheckIsExact s.params).1 hvalid
    simp only [windowOf, hd, Bool.and_eq_true]
    exact fun hw => hdisjoint d ⟨hw.1.2, hw.2.2⟩
  exact (keyConsistent_keyWord_iff ..).2 ⟨hdue, edgeOf_of_window, edgeOf_of_window, hwindows, hstop⟩

theorem SessionInv.keyReserved {s : State} (h : SessionInv s) (v : Bool) :
    keyReserved (assembleKey v s) = false := by
  rw [← Bool.not_eq_true, assembleKey, keyReserved_keyWord_iff]
  rintro (hf | ⟨hm, hf⟩)
  · exact h.noCode11 hf
  · simp [h.preamblePacket hf] at hm

/-- Settles O16: the windows are disjoint, a stop bit has seven bits before it, which only RECEIVE has, and PREAMBLE is
a state of Packet mode. -/
theorem assembledKeysAreConsistent : Obligations.AssembledKeysAreConsistent :=
  fun v _ h hvalid => ⟨h.session.keyConsistent hvalid v, h.session.keyReserved v⟩

/-- A reserved key's row is one of the two that fault. -/
theorem performRow_of_keyReserved {k : StepKey} (hk : keyReserved k = true) (s : State) :
    performRow (decodeStepKey k) s = .fault .unreachableFramingState := by
  obtain ⟨m, f, e, v, d, l, w1, w4, rfl⟩ := exists_keyWord k
  rw [decodeStepKey_keyWord]
  obtain rfl | ⟨rfl, rfl⟩ := keyReserved_keyWord_iff.1 hk
  · cases m <;> rfl
  · rfl

/-- Settles O17: a reserved key's row is one of the two that fault, and O16's invariant excludes such a key. -/
theorem reservedKeysFault : Obligations.ReservedKeysFault := by
  intro s m e v d l w1 w4
  refine ⟨rfl, rfl, fun k hk => ?_, fun hk => performRow_of_keyReserved hk s, fun h => h.session.keyReserved v⟩
  exact (exec_eq_performRow (isHostOp_decodeStepKey k) s).trans (performRow_of_keyReserved hk s)

/-! ## A key placed for the next step (log 8) -/

/-- Where the 1× window holds its centre, the 4× window holds its own. -/
theorem windowMatch_four_centre {c : Config.Params} (h : windowMatch c 1 c.bitPeriod = true) :
    windowMatch c 4 (4 * c.bitPeriod : Int) = true := by
  have hlim : windowLim c 1 ≤ windowLim c 4 := by
    unfold windowLim
    cases c.windowForm
    · exact Nat.le_refl _
    · exact Nat.mul_le_mul_right _ (Nat.mul_le_mul_left _ (by decide))
  unfold windowMatch at h ⊢
  cases hb : c.windowBounds <;> simp_all [windowDev]
  omega

/-- The interval of a key with no window is in neither. -/
theorem windowMatch_past {c : Config.Params} {k : Nat} (hden : 1 ≤ c.tolDen) (hk : 1 ≤ k) (hk4 : k ≤ 4) :
    windowMatch c k (4 * c.bitPeriod + 4 * c.bitPeriod * c.tolNum + 1 : Int) = false := by
  rw [← Bool.not_eq_true]
  intro h
  obtain ⟨-, hupper⟩ := windowDev_le.1 ((windowDev_le_windowLim h).trans (windowLim_le_relative hk))
  have hcentre : k * c.bitPeriod ≤ 4 * c.bitPeriod := Nat.mul_le_mul_right _ hk4
  have hlim : c.tolNum * k * c.bitPeriod ≤ 4 * c.bitPeriod * c.tolNum := by
    calc c.tolNum * k * c.bitPeriod = k * c.bitPeriod * c.tolNum := by ring
      _ ≤ 4 * c.bitPeriod * c.tolNum := Nat.mul_le_mul_right _ hcentre
  zify at hcentre hlim hden
  push_cast at hupper
  have hdev : 0 ≤ (4 * c.bitPeriod + 4 * c.bitPeriod * c.tolNum + 1 - k * c.bitPeriod : Int) := by
    have : 0 ≤ (4 * c.bitPeriod * c.tolNum : Int) := by positivity
    linarith
  linarith [le_mul_of_one_le_left hdev hden]

/-- The interval placed for a key is in the windows the key names and in no other. -/
theorem windowMatch_intervalForKey {c : Config.Params} (hvalid : paramsValid c = true)
    (hcentre : windowMatch c 1 c.bitPeriod = true) {w1 w4 : Bool} (hw : ¬ (w1 = true ∧ w4 = true)) (pre : Bool) :
    windowMatch c 1 (intervalForKey c pre w1 w4) = w1 ∧ windowMatch c 4 (intervalForKey c pre w1 w4) = w4 := by
  obtain ⟨-, -, -, -, hdisjoint, hden, -⟩ := (parameterCheckIsExact c).1 hvalid
  have hcentre4 := windowMatch_four_centre hcentre
  cases w1 <;> cases w4
  case false.false => simp [intervalForKey, windowMatch_past hden]
  case true.true => simp at hw
  case true.false =>
    have : windowMatch c 4 c.bitPeriod = false := by simpa [hcentre] using hdisjoint c.bitPeriod
    simp [intervalForKey, hcentre, this]
  case false.true =>
    have : windowMatch c 1 (4 * c.bitPeriod : Int) = false := by
      simpa [hcentre4] using hdisjoint (4 * c.bitPeriod)
    simp [intervalForKey, hcentre4, this]

theorem FState.ofCode_code (f : FState) : FState.ofCode f.code[1] f.code[0] = f := by cases f <;> rfl

section Presented

variable {s : State} {m : Bool} {f : FState} {e v d l w1 w4 : Bool}

theorem edgeOf_presentKey : edgeOf v (presentKey (keyWord m f.code e v d l w1 w4) s) = e := by
  simp [presentKey, edgeOf]

theorem dueOf_presentKey (hd : d = true → f = .receive) :
    dueOf (presentKey (keyWord m f.code e v d l w1 w4) s) = d := by
  cases d
  case true => simp [presentKey, dueOf, FState.ofCode_code, -FState.code_receive, hd]
  case false => simp [presentKey, dueOf]

theorem stopOf_presentKey (hl : l = true → m = true) :
    stopOf (presentKey (keyWord m f.code e v d l w1 w4) s) = l := by
  cases l
  case true => simp [presentKey, stopOf, hl]
  case false =>
    have hbits : (presentKey (keyWord m f.code e v d false w1 w4) s).bitsReceived ≠ 7 := by
      by_cases h : s.bitsReceived = 7 <;> simp [presentKey, h]
    simp [stopOf, hbits]

theorem intervalOf_presentKey (he : e = true) :
    intervalOf (presentKey (keyWord m f.code e v d l w1 w4) s)
      = intervalForKey s.params (!f.code[1] && f.code[0]) w1 w4 := by
  simp [presentKey, intervalOf, he]

theorem windowOf_presentKey {k : Nat} {w : Bool} (hw : w = true → e = true)
    (hmatch : windowMatch s.params k (intervalForKey s.params (!f.code[1] && f.code[0]) w1 w4) = w) :
    windowOf k v (presentKey (keyWord m f.code e v d l w1 w4) s) = w := by
  rw [windowOf, edgeOf_presentKey]
  cases he : e
  case true => exact (congrArg _ (intervalOf_presentKey rfl)).trans hmatch
  case false => simpa [he] using hw

/-- A consistent key placed for the next step is the one assembled from the fields it sets. -/
theorem assembleKey_presentKey (hvalid : paramsValid s.params = true)
    (hcentre : windowMatch s.params 1 s.params.bitPeriod = true)
    (hk : keyConsistent (keyWord m f.code e v d l w1 w4) = true) :
    assembleKey v (presentKey (keyWord m f.code e v d l w1 w4) s) = keyWord m f.code e v d l w1 w4 := by
  obtain ⟨hd, hw1, hw4, hw, hl⟩ := (keyConsistent_keyWord_iff ..).1 hk
  obtain ⟨h1, h4⟩ := windowMatch_intervalForKey hvalid hcentre hw (!f.code[1] && f.code[0])
  rw [assembleKey, edgeOf_presentKey, dueOf_presentKey hd, stopOf_presentKey fun h => (hl h).1,
    windowOf_presentKey hw1 h1, windowOf_presentKey hw4 h4]
  simp [presentKey, FState.ofCode_code]

end Presented

theorem withFetchWord_stepKey (s : State) (k : StepKey) : s.withFetchWord 9 k.toNat = presentKey k s := by
  have hword : wordOfNat (formatOf 9 k.toNat) k.toNat = .ok (.stepKey k) :=
    (if_pos k.isLt).trans (by rw [BitVec.ofNat_toNat, BitVec.setWidth_eq])
  rw [State.withFetchWord, hword]
  rfl

/-- A step on a presented sample runs the row its key selects. -/
theorem step_sample {s : State} {v : Bool} {rest : List Input} (hvalid : paramsValid s.params = true)
    (hi : s.input = .sample v :: rest) :
    step s = exec (decodeStepKey (assembleKey v s)) (sampleStart rest s) := by
  rw [step, if_pos hvalid, fetch, hi]
  rfl

/-- Settles O6: a well-formed key is consistent, so the step assembles it again from the fields it set. -/
theorem presentedKeySelectsItsRow : Obligations.PresentedKeySelectsItsRow := by
  intro s k hvalid hcentre hk
  rw [wellFormed_decodeStepKey, Bool.and_eq_true] at hk
  obtain ⟨m, f, e, v, d, l, w1, w4, rfl⟩ := exists_keyWord k
  have hi : (presentKey (keyWord m f.code e v d l w1 w4) s).input = .sample v :: s.input := by
    simp [presentKey]
  rw [withFetchWord_stepKey, step_sample (s := presentKey _ s) hvalid hi, assembleKey_presentKey hvalid hcentre hk.1]
  rfl

end Sys2Proof.Machine

/-! PROOFS. What the core gives the host in encoded form (spec/30_encoding.md): the STATUS word, the TEST_LINE, and
the words of an assembled program. -/

namespace Sys2Proof.Machine

/-! ## Host operations with one result -/

/-- Settles O34: each answers one whole state. -/
theorem nopClrerrAndReservedComplete : Obligations.NopClrerrAndReservedComplete :=
  fun _ _ => ⟨rfl, rfl, rfl⟩

/-- A bit of the STATUS word: SESSION_OPEN in bit 0, the framing state in bits 2:1, the other fields above. -/
theorem statusWord_getLsbD (s : State) (n : Nat) : (statusWord s).getLsbD n
    = if n < 1 then (BitVec.ofBool s.sessionOpen).getLsbD n
      else if n - 1 < 2 then s.fstate.code.getLsbD (n - 1)
      else (0#5 ++ BitVec.ofBool s.cfg.debug ++ BitVec.ofBool s.cfg.test ++ BitVec.ofBool s.cfg.mode
        ++ BitVec.ofBool (inReady s) ++ BitVec.ofBool s.errIntegrity ++ BitVec.ofBool s.errFraming
        ++ BitVec.ofBool s.errLength ++ BitVec.ofBool s.outValid).getLsbD (n - 1 - 2) :=
  (BitVec.getLsbD_append (n := 5 + 1 + 1 + 1 + 1 + 1 + 1 + 1 + 1 + 2) (m := 1)).trans
    (by rw [BitVec.getLsbD_append])

theorem statusWord_stateCode (s : State) : (statusWord s).extractLsb' 1 2 = s.fstate.code := by
  ext n hn
  rw [BitVec.getElem_extractLsb', statusWord_getLsbD, if_neg (by omega), if_pos (by omega),
    Nat.add_sub_cancel_left, BitVec.getLsbD_eq_getElem hn]

theorem statusWord_reservedBits (s : State) : (statusWord s).extractLsb' 11 5 = 0#5 := by
  ext n hn
  have h0 : 11 + n - 1 - 2 = 8 + n := by omega
  rw [BitVec.getElem_extractLsb', statusWord_getLsbD, if_neg (by omega), if_neg (by omega), h0]
  simp [BitVec.getLsbD_append, -Nat.reduceAdd]

/-- Settles O37: STATUS answers `statusWord`, whose fields are read from their places in it. -/
theorem statusMirrorsTheState : Obligations.StatusMirrorsTheState := by
  intro s a
  have hstate : (statusWord s).extractLsb' 1 2 =
      (match s.fstate with
        | .idle => 0b00#2 | .preamble => 0b01#2 | .receive => 0b10#2 | .code11 => 0b11#2) :=
    (statusWord_stateCode s).trans (by cases s.fstate <;> rfl)
  refine ⟨statusWord s, rfl, ?_, hstate, ?_, ?_, ?_, ?_, ?_, ?_, ?_, ?_, statusWord_reservedBits s⟩
  all_goals simp [statusWord_getLsbD, BitVec.getLsbD_append, inReady, -Nat.reduceAdd, -BitVec.getLsbD_eq_getElem]

/-! ## TEST_LINE (R105) -/

/-- The digits of a number below 1000. -/
theorem decimalDigits_eq_map {n : Nat} (hn : n < 1000) :
    ∃ ds : List Nat, decimalDigits n = ds.map digitByte ∧ (∀ d ∈ ds, d < 10)
      ∧ Nat.ofDigits 10 ds.reverse = n ∧ 1 ≤ ds.length ∧ ds.length ≤ 3 ∧ (ds.head? = some 0 → ds = [0]) := by
  unfold decimalDigits
  split
  next h1 =>
    refine ⟨[n], rfl, ?_, ?_⟩ <;> simp [h1]
  next h1 =>
    split
    next h2 =>
      refine ⟨[n / 10, n % 10], rfl, ?_, ?_, ?_⟩ <;> simp [Nat.ofDigits_cons] <;> omega
    next h2 =>
      refine ⟨[n / 100, n / 10 % 10, n % 10], rfl, ?_, ?_, ?_⟩ <;> simp [Nat.ofDigits_cons] <;> omega

/-- Settles O29: a byte is below 1000, and the three forms of `decimalDigits` are its digits. -/
theorem testLineIsTheDecimalNumber : Obligations.TestLineIsTheDecimalNumber := by
  intro id
  obtain ⟨ds, hds, hspec⟩ := decimalDigits_eq_map (n := id.toNat) (id.isLt.trans (by decide))
  exact ⟨ds, rfl, by simp [testLineUnit, testLineBytes, hds], by simp [testLineUnit, testLineBytes, hds, digitByte],
    hspec⟩

/-! ## Sample sequences (R109) -/

theorem samplesOfByte_byteOfSamples (a b c d e f g h : Bool) :
    samplesOfByte (byteOfSamples a b c d e f g h) = [a, b, c, d, e, f, g, h] := by
  revert a b c d e f g h; decide

/-- A sequence that does not begin with eight samples is shorter. -/
theorem length_lt_eight {vs : List Bool}
    (h : ∀ a b c d e f g h rest, vs = a :: b :: c :: d :: e :: f :: g :: h :: rest → False) : vs.length < 8 := by
  by_contra hlen
  obtain ⟨x, rest, hx, hrest⟩ : ∃ x rest, x.length = 8 ∧ vs = x ++ rest :=
    ⟨vs.take 8, vs.drop 8, by simp; omega, by simp⟩
  match x, hx with
  | [a, b, c, d, e, f, g, k], _ => exact h a b c d e f g k rest hrest

/-- Settles O55: by the eight samples `packSamples` takes at a time. -/
theorem streamPacksEightSamplesAByte : Obligations.StreamPacksEightSamplesAByte := by
  intro vs
  induction vs using packSamples.induct with
  | case1 => simp [packSamples]
  | case2 a b c d e f g h rest bs hrest ih =>
    have hlen : rest.length % 8 = 0 := by simpa [hrest] using ih.2
    have hbs : bs.flatMap samplesOfByte = rest := ih.1 bs hrest
    refine ⟨?_, ?_⟩
    · simp [packSamples, hrest, samplesOfByte_byteOfSamples, hbs]
    · simp [packSamples, hrest]; omega
  | case3 a b c d e f g h rest hrest ih =>
    have hlen : rest.length % 8 ≠ 0 := ih.2.1 hrest
    refine ⟨?_, ?_⟩
    · simp [packSamples, hrest]
    · simp [packSamples, hrest]; omega
  | case4 vs hne height =>
    have hlt := length_lt_eight height
    have hpos : vs.length ≠ 0 := fun h0 => hne (List.length_eq_zero_iff.1 h0)
    simp [packSamples, Nat.mod_eq_of_lt hlt, hpos]

/-! ## Assembled programs (R108 to R110) -/

/-- A host command word is legal exactly if its OP is not 111. -/
theorem wellFormed_decodeHostCmd_hostWord (op : BitVec 3) (a : Byte) :
    (decodeHostCmd (hostWord op a)).wellFormed = true ↔ op ≠ 0b111#3 := by
  rcases opCode_cases op with rfl | rfl | rfl | rfl | rfl | rfl | rfl | rfl <;>
    simp [decodeHostCmd, Instr.wellFormed]

theorem programLegal_append {ws ws' : List HostWord} :
    programLegal (ws ++ ws') = (programLegal ws && programLegal ws') := List.all_append

theorem programLegal_pushPop (bs : List Byte) : programLegal (pushPop bs) = true := by
  simp [programLegal, pushPop, wellFormed_decodeHostCmd_hostWord]

theorem programLegal_assembleLine {l : AsmLine} {ws : List HostWord} (h : assembleLine l = .ok ws) :
    programLegal ws = true := by
  cases l with
  | stream runs =>
    rw [assembleLine] at h
    split at h
    next =>
      split at h
      next bs _ => cases h; exact programLegal_pushPop bs
      next => cases h
    next => cases h
  | bytes bs => cases h; exact programLegal_pushPop bs
  | _ => cases h; simp [programLegal, wellFormed_decodeHostCmd_hostWord]

theorem programLegal_assemble {ls : List AsmLine} {ws : List HostWord} (h : assemble ls = .ok ws) :
    programLegal ws = true := by
  induction ls generalizing ws with
  | nil => cases h; rfl
  | cons l rest ih =>
    rw [assemble] at h
    split at h
    next hl hrest =>
      cases h
      rw [programLegal_append, programLegal_assembleLine hl, ih hrest, Bool.and_self]
    next => cases h
    next => cases h

theorem programLegal_of_mem_op111 {ws : List HostWord} {w : HostWord} (hw : w ∈ ws)
    (hop : w.extractLsb' 8 3 = 0b111#3) : programLegal ws = false := by
  rw [← Bool.not_eq_true, programLegal, List.all_eq_true]
  intro hall
  have hlegal := hall w hw
  rw [← hostWord_fields w, wellFormed_decodeHostCmd_hostWord] at hlegal
  exact hlegal hop

/-- Settles O56: the assembler writes no OP 111, and a legal program holds none. -/
theorem assembledProgramsLoad : Obligations.AssembledProgramsLoad := by
  refine ⟨fun ls ws s h => ?_, fun ws s w hw hop => ?_⟩
  · have hlegal := programLegal_assemble h
    exact ⟨if_pos hlegal, if_pos hlegal⟩
  · have hlegal := programLegal_of_mem_op111 hw hop
    simp [loadProgram, runProgram, hlegal]

end Sys2Proof.Machine

/-! PROOFS. Every host command completes in the reference semantics (spec/60_exceptions.md R250): a sample step that the
invariant allows has an effect unless it emits into a full register, and the eight samples of a PUSH emit at most once
(spec/43_host_ops.md R230). -/

namespace Sys2Proof.Machine

/-! ## What a sample step needs -/

/-- An accepted bit has an effect, where the output register is empty or the bit is a length bit before the last. -/
theorem exists_bitEffect {s : State} (b : Bool) (h : SessionInv s) (hm : s.cfg.mode = false)
    (hf : s.fstate = .receive) (hroom : s.outValid = true → s.bitsReceived < 7) :
    ∃ u, BitEffect (acceptBit b s) u := by
  obtain hlt | h8 | hgt := Nat.lt_trichotomy (acceptBit b s).bitsReceived 8
  · exact ⟨_, .lengthBit hlt⟩
  · cases hr : lengthRejected (decodedLength (acceptBit b s).shift) (acceptBit b s)
    · exact ⟨_, .accepted h8 hr⟩
    · exact ⟨_, .rejected h8 hr⟩
  have hbits : 8 ≤ s.bitsReceived := Nat.lt_succ_iff.1 hgt
  by_cases hbyte : ((acceptBit b s).bitsReceived - 8) % 8 = 0
  case neg => exact ⟨_, .payloadBit hgt hbyte⟩
  by_cases hlast : (acceptBit b s).payload.length + 1 = (acceptBit b s).length
  case neg => exact ⟨_, .payloadByte hgt hbyte hlast⟩
  have hempty : s.outValid = false := by
    rw [← Bool.not_eq_true]
    exact fun ho => absurd (hroom ho) (by omega)
  cases htest : s.cfg.test
  case false => exact ⟨_, .packet hgt hbyte hlast htest hempty⟩
  have hlen : s.length = 2 := h.testLength hf hm hbits htest
  obtain ⟨id, hid⟩ : ∃ id, s.payload = [id] :=
    List.length_eq_one_iff.1 (by simp only [acceptBit_payload, acceptBit_length] at hlast; omega)
  by_cases hc : (acceptBit b s).shift = id ^^^ 0xFF#8
  · exact ⟨_, .testLine id hgt hbyte hlast htest hid hc hempty⟩
  · exact ⟨_, .integrityFail id hgt hbyte hlast htest hid hc⟩

/-- A sample has an effect, where the output register is empty or no frame is at its end. -/
theorem exists_sampleEffect {s : State} (v : Bool) (h : SessionInv s)
    (hroom : s.outValid = true → s.fstate = .receive → s.bitsReceived < 7) : ∃ u, SampleEffect v s u := by
  cases hf : s.fstate
  case code11 => exact absurd hf h.noCode11
  case idle =>
    cases hm : s.cfg.mode
    · cases hw : windowOf 1 v s
      · exact ⟨_, .packetIdle hm hf hw⟩
      · exact ⟨_, .lock hm hf hw⟩
    · cases hr : edgeOf v s && v
      · exact ⟨_, .characterIdle hm hf hr⟩
      · rw [Bool.and_eq_true] at hr
        exact ⟨_, .rise hm hf hr.1 hr.2⟩
  case preamble =>
    have hm := h.preamblePacket hf
    cases he : edgeOf v s
    · exact ⟨_, .preambleQuiet hm hf he⟩
    cases hw : windowOf 4 v s
    · cases hw1 : windowOf 1 v s
      · exact ⟨_, .lost hm hf he hw hw1⟩
      · exact ⟨_, .extend hm hf hw hw1⟩
    · exact ⟨_, .sync hm hf hw⟩
  case receive =>
    by_cases hd : s.sampleIndex = s.nextBit
    case neg => exact ⟨_, .wait hf hd⟩
    cases hm : s.cfg.mode
    · obtain ⟨u, hu⟩ := exists_bitEffect (effectiveBit v s) h hm hf fun ho => hroom ho hf
      exact ⟨_, .packetBit u hm hf hd hu⟩
    by_cases hb : s.bitsReceived = 7
    case neg => exact ⟨_, .data hm hf hd hb⟩
    cases v
    · have hempty : s.outValid = false := by
        rw [← Bool.not_eq_true]
        exact fun ho => absurd (hroom ho hf) (by omega)
      exact ⟨_, .stopOk hm hf hd hb rfl hempty⟩
    · exact ⟨_, .stopErr hm hf hd hb rfl⟩

/-! ## At most one unit in eight samples -/

/-- No unit is pending, or the next one is more than `n` samples away: a frame that has begun lacks more bits than that,
and one that has not begun needs a sample to begin and eight instants or more. -/
def RoomFor (n : Nat) (s : State) : Prop :=
  s.outValid = true → n ≤ 7 ∧ (s.fstate = .receive → n + s.bitsReceived ≤ 7)

theorem roomFor_of_empty {n : Nat} {s : State} (h : s.outValid = false) : RoomFor n s := by
  simp [RoomFor, h]

/-- One sample uses up one of the samples there is room for. -/
theorem SampleEffect.roomFor {v : Bool} {n : Nat} {s u : State} (hu : SampleEffect v s u)
    (h : RoomFor (n + 1) s) (hn : n ≤ 7) : RoomFor n u := by
  have hwait : RoomFor n s := fun ho => by
    obtain ⟨h7, hbits⟩ := h ho
    exact ⟨hn, fun hf => by have := hbits hf; omega⟩
  cases hu with
  | packetIdle | preambleQuiet | extend | wait | characterIdle => exact hwait
  | lock | lost | stopOk | stopErr => exact fun _ => ⟨hn, by simp⟩
  | sync | rise => exact fun _ => ⟨hn, by simpa using hn⟩
  | data _ hf =>
    intro ho
    have := (h ho).2 hf
    exact ⟨hn, fun _ => by simp; omega⟩
  | packetBit u _ hf _ hbit =>
    cases hbit with
    | rejected | packet | testLine | integrityFail => exact fun _ => ⟨hn, by simp⟩
    | lengthBit | accepted | payloadBit | payloadByte =>
      intro ho
      have := (h ho).2 hf
      exact ⟨hn, fun _ => by simp; omega⟩

/-- In the reference semantics up to eight samples run to their end, where there is room for them. -/
theorem runSamples_completes {vs : List Bool} {s : State} (h : Inv s) (href : Reference s)
    (hroom : RoomFor vs.length s) (hlen : vs.length ≤ 8) : ∃ t, runSamples vs s = .next t := by
  induction vs generalizing s with
  | nil => exact ⟨s, rfl⟩
  | cons v vs ih =>
    rw [List.length_cons] at hroom hlen
    obtain ⟨u, hu⟩ := exists_sampleEffect v h.session fun ho hf => by
      have := (hroom ho).2 hf
      omega
    have hparams : u.params = s.params := hu.keeps.1
    have hstep : sampleStep v s = .next (extractorUpdate v (edgeOf v s) u) := by
      rw [hu.sampleStep_eq, finishSample_unbounded (hparams ▸ href.unbounded)]
    rw [runSamples_cons_next hstep]
    exact ih (sampleStep_inv h href.valid hstep) ⟨hparams ▸ href.valid, hparams ▸ href.unbounded⟩
      (hu.roomFor hroom (by omega)) (by omega)

theorem samplesOfByte_length (b : Byte) : (samplesOfByte b).length = 8 := rfl

theorem unpack_completes {s : State} (b : Byte) (h : Inv s) (href : Reference s) (ho : s.outValid = false) :
    ∃ t, unpack b s = .next t :=
  runSamples_completes h href (roomFor_of_empty ho) (samplesOfByte_length b).le

/-! ## Host commands -/

theorem execPush_ready {b : Byte} {s : State} (hr : inReady s = true) :
    exec (.push b) s = unpack b (returnResult true [] .none s) := if_pos hr

theorem execPush_refused {b : Byte} {s : State} (hr : inReady s = false) :
    exec (.push b) s = .next (returnResult false [] .none s) := if_neg (by simp [hr])

theorem inReady_iff {s : State} : inReady s = true ↔ s.sessionOpen = true ∧ s.outValid = false := by
  simp [inReady]

theorem exec_hostOp_completes {i : Instr} {s : State} (hi : isHostOp i = true) (h : Inv s) (href : Reference s) :
    ∃ t, exec i s = .next t := by
  cases i with
  | nop | openSession | status | clrerr | reserved111 => exact ⟨_, rfl⟩
  | closeSession =>
    change ∃ t, execClose s = .next t
    unfold execClose
    split <;> exact ⟨_, rfl⟩
  | pop =>
    change ∃ t, execPop s = .next t
    unfold execPop
    split <;> exact ⟨_, rfl⟩
  | push b =>
    cases hr : inReady s
    · exact ⟨_, execPush_refused hr⟩
    · rw [execPush_ready hr]
      exact unpack_completes b (h.returnResult _ _ _) ⟨href.valid, href.unbounded⟩ (inReady_iff.1 hr).2
  | _ => simp [isHostOp, encode] at hi

theorem ExecEffect.input {i : Instr} {s t : State} (h : ExecEffect s i t) : t.input = s.input := by
  cases h with
  | push b _ hu => exact (unpack_sameSettings hu).input
  | row _ hr => exact (performRow_sameSettings hr).input
  | _ => rfl

/-- A step on a host command word runs its operation. -/
theorem step_command {s : State} {w : HostWord} {rest : List Input} (hvalid : paramsValid s.params = true)
    (hi : s.input = .command w :: rest) : step s = exec (decodeHostCmd w) { s with input := rest } := by
  rw [step, if_pos hvalid, fetch, hi]

theorem Reference.of_params_eq {s t : State} (h : Reference s) (hparams : t.params = s.params) : Reference t :=
  ⟨hparams ▸ h.valid, hparams ▸ h.unbounded⟩

/-- Settles O40: a PUSH runs only with an empty register, and its eight samples emit at most one unit. -/
theorem hostCommandsNeverStopTheCore : Obligations.HostCommandsNeverStopTheCore := by
  intro s w rest h href hi
  obtain ⟨t, ht⟩ := exec_hostOp_completes (isHostOp_decodeHostCmd w) (h.takeInput rest)
    (href.of_params_eq (t := { s with input := rest }) rfl)
  have hstep : step s = .next t := (step_command href.valid hi).trans ht
  exact ⟨t, hstep, everyStepKeepsTheInvariant s t h hstep,
    href.of_params_eq (parametersNeverChange s t hstep), (exec_next ht).input⟩

/-! ## PUSH and POP in turn (30_encoding.md R110) -/

theorem sampleStep_sampleIndex {v : Bool} {s t : State} (h : sampleStep v s = .next t) :
    t.sampleIndex = s.sampleIndex + 1 := by
  obtain ⟨u, hu, -, rfl⟩ := sampleStep_next h
  obtain ⟨-, hindex, -⟩ := hu.keeps
  rw [extractorUpdate_sampleIndex, hindex]

theorem runSamples_sampleIndex {vs : List Bool} {s t : State} (h : runSamples vs s = .next t) :
    t.sampleIndex = s.sampleIndex + vs.length := by
  induction vs generalizing s with
  | nil => cases h; rfl
  | cons v vs ih =>
    obtain ⟨u, hu, h⟩ := andThen_eq_next.1 h
    rw [ih h, sampleStep_sampleIndex hu, List.length_cons]
    omega

/-- Reference states that meet the invariant and in which a PUSH would be accepted. -/
structure Ready (s : State) : Prop where
  inv : Inv s
  ref : Reference s
  sessionOpen : s.sessionOpen = true
  outEmpty : s.outValid = false

/-- A PUSH that is ready takes its eight samples. -/
theorem exec_push_of_ready {s : State} (b : Byte) (h : Ready s) :
    ∃ t, exec (.push b) s = .next t ∧ Inv t ∧ SameSettings s t ∧ t.sampleIndex = s.sampleIndex + 8 := by
  rw [execPush_ready (inReady_iff.2 ⟨h.sessionOpen, h.outEmpty⟩)]
  have hstart : Inv (returnResult true [] .none s) := h.inv.returnResult _ _ _
  obtain ⟨t, ht⟩ := unpack_completes b hstart ⟨h.ref.valid, h.ref.unbounded⟩ h.outEmpty
  obtain ⟨hparams, hcfg, hopen, hinput⟩ := unpack_sameSettings ht
  exact ⟨t, ht, unpack_inv hstart h.ref.valid ht, ⟨hparams, hcfg, hopen, hinput⟩, runSamples_sampleIndex ht⟩

/-- POP empties the output register and leaves the rest. -/
theorem exec_pop_leaves {s : State} (a : Byte) (h : Inv s) (hvalid : paramsValid s.params = true) :
    ∃ t, exec (.pop a) s = .next t ∧ Inv t ∧ SameSettings s t ∧ t.sampleIndex = s.sampleIndex
      ∧ t.outValid = false := by
  have hpop : exec (.pop a) s = execPop s := rfl
  cases ho : s.outValid
  case false =>
    have heq : exec (.pop a) s = .next (returnResult true [] (.unit OutUnit.empty) s) :=
      hpop.trans (if_neg (by simp [ho]))
    exact ⟨_, heq, (exec_next heq).inv h hvalid rfl, ⟨rfl, rfl, rfl, rfl⟩, rfl, ho⟩
  case true =>
    have heq := hpop.trans (if_pos ho)
    exact ⟨_, heq, (exec_next heq).inv h hvalid rfl, ⟨rfl, rfl, rfl, rfl⟩, rfl, rfl⟩

/-- A run of words goes on from the state its first word answers. -/
theorem runWords_cons_next {w : HostWord} {ws : List HostWord} {s t u : State} {obs : List Observation}
    (hvalid : paramsValid s.params = true) (h : exec (decodeHostCmd w) s = .next t)
    (hrun : runWords ws t = .next (u, obs)) :
    runWords (w :: ws) s = .next (u, observe (decodeHostCmd w) t.result ++ obs) := by
  have hstep : step { s with input := .command w :: s.input } = .next t :=
    (step_command (s := { s with input := .command w :: s.input }) hvalid rfl).trans h
  rw [runWords, hstep]
  exact congrArg (prependObs _) hrun

theorem runWords_pushPop {bs : List Byte} {s : State} (h : Ready s) :
    ∃ t obs, runWords (pushPop bs) s = .next (t, obs) ∧ t.sessionOpen = true ∧ t.outValid = false
      ∧ t.sampleIndex = s.sampleIndex + 8 * bs.length := by
  induction bs generalizing s with
  | nil => exact ⟨s, [], rfl, h.sessionOpen, h.outEmpty, rfl⟩
  | cons b bs ih =>
    obtain ⟨p, hpush, hpinv, hpsame, hpindex⟩ := exec_push_of_ready b h
    have hpref := h.ref.of_params_eq hpsame.params
    obtain ⟨q, hpop, hqinv, hqsame, hqindex, hqempty⟩ := exec_pop_leaves 0 hpinv hpref.valid
    have hsame := hpsame.trans hqsame
    obtain ⟨t, obs, hrun, hopen, hempty, hindex⟩ :=
      ih ⟨hqinv, hpref.of_params_eq hqsame.params, hsame.sessionOpen.trans h.sessionOpen, hqempty⟩
    have hdecodePush : decodeHostCmd (hostWord 0b011#3 b) = .push b := by simp [decodeHostCmd]
    have hdecodePop : decodeHostCmd (hostWord 0b100#3 0) = .pop 0 := by simp [decodeHostCmd]
    have hrest := runWords_cons_next hpref.valid (hdecodePop ▸ hpop) hrun
    refine ⟨t, _, runWords_cons_next h.ref.valid (hdecodePush ▸ hpush) hrest, hopen, hempty, ?_⟩
    rw [hindex, hqindex, hpindex, List.length_cons]
    omega

/-- Settles O54: each POP empties the register for the next PUSH. -/
theorem pushPopExpansionIsAlwaysAccepted : Obligations.PushPopExpansionIsAlwaysAccepted := by
  intro bs s h href hopen hempty
  rw [show runProgram (pushPop bs) s = runWords (pushPop bs) s from if_pos (programLegal_pushPop bs)]
  exact runWords_pushPop ⟨h, href, hopen, hempty⟩

end Sys2Proof.Machine

/-! PROOFS. Bit cells in the reference semantics (spec/30_encoding.md R97, R107): in RECEIVE, the run of one cell is the
effect of its instant, and a whole character frame is received (spec/42_character.md R202). -/

namespace Sys2Proof.Machine

/-! ## The timing fields -/

/-- `s` with the fields that say where on the line it is: the previous sample, the last edge, the sample index and the
next instant. -/
def setTiming (p : Bool) (l : Int) (i n : Nat) (s : State) : State :=
  { s with prevSample := p, lastEdgeIndex := l, sampleIndex := i, nextBit := n }

section

variable (p : Bool) (l : Int) (i n : Nat) (s : State)

@[simp] theorem setTiming_params : (setTiming p l i n s).params = s.params := rfl
@[simp] theorem setTiming_sampleIndex : (setTiming p l i n s).sampleIndex = i := rfl
@[simp] theorem setTiming_lastEdgeIndex : (setTiming p l i n s).lastEdgeIndex = l := rfl
@[simp] theorem setTiming_prevSample : (setTiming p l i n s).prevSample = p := rfl
@[simp] theorem setTiming_nextBit : (setTiming p l i n s).nextBit = n := rfl

end

/-- No phase of an accepted bit reads or writes the timing fields. -/
theorem BitEffect.at_timing {s u : State} (h : BitEffect s u) (p : Bool) (l : Int) (i n : Nat) :
    BitEffect (setTiming p l i n s) (setTiming p l i n u) := by
  cases h with
  | lengthBit hb => exact .lengthBit hb
  | rejected hb hr => exact .rejected hb hr
  | accepted hb hr => exact .accepted hb hr
  | payloadBit hb h8 => exact .payloadBit hb h8
  | payloadByte hb h8 hl => exact .payloadByte hb h8 hl
  | packet hb h8 hl ht ho => exact .packet hb h8 hl ht ho
  | testLine id hb h8 hl ht hp hc ho => exact .testLine id hb h8 hl ht hp hc ho
  | integrityFail id hb h8 hl ht hp hc => exact .integrityFail id hb h8 hl ht hp hc

/-- `vs` runs from `s` to `u` at sample `i` with the next instant `n`, whatever the previous sample and the last edge
are then. -/
def RunsTo (vs : List Bool) (s u : State) (i n : Nat) : Prop :=
  ∃ p l, runSamples vs s = .next (setTiming p l i n u)

theorem RunsTo.append {vs ws : List Bool} {s u w : State} {i n i' n' : Nat} (h : RunsTo vs s u i n)
    (h' : ∀ p l, RunsTo ws (setTiming p l i n u) w i' n') : RunsTo (vs ++ ws) s w i' n' := by
  obtain ⟨p, l, h⟩ := h
  obtain ⟨p', l', h'⟩ := h' p l
  exact ⟨p', l', (runSamples_append_next h).trans h'⟩

/-! ## A held level -/

theorem sampleStep_held_idle {s : State} (hw : s.params.indexWidth = none) (hf : s.fstate = .idle) :
    sampleStep s.prevSample s = .next { s with sampleIndex := s.sampleIndex + 1 } := by
  cases hm : s.cfg.mode
  · exact sampleStep_quiet hw hm (.inl hf)
  · have he : edgeOf s.prevSample s = false := by simp [edgeOf]
    rw [sampleStep_character_idle hm hf, he]
    exact finishSample_unbounded hw

/-- In IDLE, and in RECEIVE up to the next instant, a held level is only counted. -/
theorem runSamples_held {s : State} {n : Nat} (hw : s.params.indexWidth = none)
    (h : s.fstate = .idle ∨ s.fstate = .receive ∧ s.sampleIndex + n ≤ s.nextBit) :
    runSamples (List.replicate n s.prevSample) s = .next { s with sampleIndex := s.sampleIndex + n } := by
  obtain hf | ⟨hf, hn⟩ := h
  · induction n generalizing s with
    | zero => rfl
    | succ n ih =>
      rw [List.replicate_succ, runSamples_cons_next (sampleStep_held_idle hw hf)]
      refine (ih (s := { s with sampleIndex := s.sampleIndex + 1 }) hw hf).trans ?_
      rw [Nat.add_right_comm]
      rfl
  · obtain ⟨p, l, hrun, hpos, hzero, hl⟩ := runSamples_wait hw hf s.prevSample n (.inl hn)
    have hp : p = s.prevSample := n.eq_zero_or_pos.elim hzero hpos
    rw [hrun, hp, hl rfl]

/-! ## A cell and its instant -/

/-- In RECEIVE, the next instant is `r` samples into the current cell. -/
structure InCell (r : Nat) (s : State) : Prop where
  unbounded : s.params.indexWidth = none
  receive : s.fstate = .receive
  instant : s.nextBit = s.sampleIndex + r
  inside : r < s.params.bitPeriod

/-- `k` samples and as many of the schedule later, the instant is where it was in its cell. -/
theorem InCell.later {r : Nat} {s u : State} (hc : InCell r s) (hparams : u.params = s.params)
    (hf : u.fstate = .receive) (p : Bool) (l : Int) (k : Nat) :
    InCell r (setTiming p l (s.sampleIndex + k) (s.nextBit + k) u) where
  unbounded := hparams ▸ hc.unbounded
  receive := hf
  instant := by simp only [setTiming, hc.instant]; omega
  inside := hparams ▸ hc.inside

/-- The effect of an instant at level `v`, but for the timing fields: `s` becomes `u` and the schedule advances. -/
def InstantEffect (v : Bool) (s u : State) : Prop :=
  ∀ p l n, SampleEffect v (setTiming p l n n s) (setTiming p l n (n + s.params.bitPeriod) u)

/-- In Packet mode, what the accepted bit makes of the frame. -/
theorem InstantEffect.of_bitEffect {v : Bool} {s u : State} (hm : s.cfg.mode = false) (hf : s.fstate = .receive)
    (h : BitEffect (acceptBit (effectiveBit v s) s) u) : InstantEffect v s u := by
  intro p l n
  rw [← show u.params = s.params from h.keeps.1]
  exact .packetBit (setTiming p l n n u) hm hf rfl (h.at_timing p l n n)

theorem InstantEffect.sampleStep {v : Bool} {s u : State} (h : InstantEffect v s u)
    (hw : s.params.indexWidth = none) (p : Bool) (l : Int) (n : Nat) :
    ∃ l', sampleStep v (setTiming p l n n s) = .next (setTiming v l' (n + 1) (n + s.params.bitPeriod) u) := by
  have hparams : u.params = s.params := (h p l n).keeps.1
  exact ⟨_, (h p l n).sampleStep_eq.trans (finishSample_unbounded (hparams ▸ hw))⟩

/-- A cell is the samples before its sample `r`, that sample, and those after it. -/
theorem cell_eq {p r : Nat} (h : r < p) (v : Bool) :
    cell p v = List.replicate r v ++ v :: List.replicate (p - r - 1) v := by
  rw [cell, ← List.replicate_succ, List.replicate_append_replicate]
  congr 1
  omega

section Cell

variable {r : Nat} {v : Bool} {s u : State} (hc : InCell r s) (hv : InstantEffect v s u)
include hc

/-- The samples of a cell before the instant leave all but the timing fields. -/
theorem runsTo_instant : RunsTo (List.replicate r v) s s s.nextBit s.nextBit := by
  obtain ⟨p, l, hrun, -⟩ := runSamples_wait hc.unbounded hc.receive v r (.inl hc.instant.ge)
  exact ⟨p, l, hrun.trans (by rw [← hc.instant]; rfl)⟩

include hv

/-- The run of a cell is the effect of its instant. -/
theorem runSamples_cell (hu : u.fstate = .idle ∨ u.fstate = .receive) :
    ∃ l, runSamples (cell s.params.bitPeriod v) s
      = .next (setTiming v l (s.sampleIndex + s.params.bitPeriod) (s.nextBit + s.params.bitPeriod) u) := by
  obtain ⟨p, l, hwait⟩ := runsTo_instant (v := v) hc
  obtain ⟨l', hinstant⟩ := hv.sampleStep hc.unbounded p l s.nextBit
  have hinside := hc.inside
  have hparams : u.params = s.params := (hv p l s.nextBit).keeps.1
  have hheld := runSamples_held (n := s.params.bitPeriod - r - 1)
    (s := setTiming v l' (s.nextBit + 1) (s.nextBit + s.params.bitPeriod) u) (hparams ▸ hc.unbounded)
    (hu.imp_right fun h => ⟨h, by simp only [setTiming]; omega⟩)
  have hend : s.nextBit + 1 + (s.params.bitPeriod - r - 1) = s.sampleIndex + s.params.bitPeriod := by
    rw [hc.instant]; omega
  rw [cell_eq hc.inside, runSamples_append_next hwait, runSamples_cons_next hinstant]
  exact ⟨l', hheld.trans (by rw [← hend]; rfl)⟩

end Cell

/-! ## Bits that complete nothing -/

/-- Whether the bits of a frame are inverted on the line: never in Character mode (42_character.md R195). -/
def lineInvert (s : State) : Bool := !s.cfg.mode && s.invert

/-- Bits accepted in order. -/
def acceptBits (bits : List Bool) (s : State) : State := bits.foldl (fun t b => acceptBit b t) s

theorem acceptBits_eq (bits : List Bool) (s : State) : acceptBits bits s
    = { s with bitsReceived := s.bitsReceived + bits.length, shift := bits.foldl shiftIn s.shift } := by
  induction bits generalizing s with
  | nil => rfl
  | cons b bits ih =>
    refine (ih (acceptBit b s)).trans ?_
    simp [acceptBit, Nat.add_assoc, Nat.add_comm 1]

@[simp] theorem acceptBits_params (bits : List Bool) (s : State) : (acceptBits bits s).params = s.params := by
  rw [acceptBits_eq]

@[simp] theorem acceptBits_cfg (bits : List Bool) (s : State) : (acceptBits bits s).cfg = s.cfg := by
  rw [acceptBits_eq]

@[simp] theorem acceptBits_fstate (bits : List Bool) (s : State) : (acceptBits bits s).fstate = s.fstate := by
  rw [acceptBits_eq]

@[simp] theorem acceptBits_invert (bits : List Bool) (s : State) : (acceptBits bits s).invert = s.invert := by
  rw [acceptBits_eq]

@[simp] theorem acceptBits_outValid (bits : List Bool) (s : State) :
    (acceptBits bits s).outValid = s.outValid := by
  rw [acceptBits_eq]

@[simp] theorem acceptBits_result (bits : List Bool) (s : State) : (acceptBits bits s).result = s.result := by
  rw [acceptBits_eq]

theorem acceptBits_setTiming (bits : List Bool) (p : Bool) (l : Int) (i n : Nat) (s : State) :
    acceptBits bits (setTiming p l i n s) = setTiming p l i n (acceptBits bits s) := by
  rw [acceptBits_eq, acceptBits_eq]
  rfl

/-- A bit before the eighth of a byte, and before the stop bit, is only accepted. -/
theorem InstantEffect.of_plainBit {s : State} (b : Bool) (hf : s.fstate = .receive)
    (hb : (s.bitsReceived + 1) % 8 ≠ 0) : InstantEffect (b ^^ lineInvert s) s (acceptBit b s) := by
  cases hm : s.cfg.mode
  case true =>
    intro p l n
    rw [show (b ^^ lineInvert s) = b by simp [lineInvert, hm]]
    exact .data hm hf rfl (by simp only [setTiming]; omega)
  case false =>
    have hbit : effectiveBit (b ^^ lineInvert s) s = b := by simp [effectiveBit, lineInvert, hm]
    apply InstantEffect.of_bitEffect hm hf
    rw [hbit]
    by_cases hlt : (acceptBit b s).bitsReceived < 8
    · exact .lengthBit hlt
    · rw [acceptBit_bitsReceived] at hlt
      exact .payloadBit (by simp only [acceptBit_bitsReceived]; omega)
        (by simp only [acceptBit_bitsReceived]; omega)

/-- The cells of bits that complete no byte and are no stop bit accept them in order. -/
theorem runsTo_bitCells {r : Nat} {s : State} (hc : InCell r s) (bits : List Bool)
    (hb : s.bitsReceived % 8 + bits.length < 8) :
    RunsTo (cells s.params.bitPeriod (lineInvert s) bits) s (acceptBits bits s)
      (s.sampleIndex + bits.length * s.params.bitPeriod) (s.nextBit + bits.length * s.params.bitPeriod) := by
  induction bits generalizing s with
  | nil => exact ⟨s.prevSample, s.lastEdgeIndex, by simp [cells, acceptBits, setTiming]⟩
  | cons b bits ih =>
    rw [List.length_cons] at hb
    obtain ⟨l, hcell⟩ := runSamples_cell hc (.of_plainBit b hc.receive (by omega)) (.inr hc.receive)
    obtain ⟨p', l', hrest⟩ := ih (hc.later (u := acceptBit b s) rfl hc.receive (b ^^ lineInvert s) l
      s.params.bitPeriod) (by simp only [setTiming, acceptBit_bitsReceived]; omega)
    refine ⟨p', l', (runSamples_append_next hcell).trans (hrest.trans ?_)⟩
    have hlen : (b :: bits).length * s.params.bitPeriod
        = s.params.bitPeriod + bits.length * s.params.bitPeriod := by
      rw [List.length_cons]; ring
    rw [acceptBits_setTiming, hlen, ← Nat.add_assoc, ← Nat.add_assoc]
    rfl

/-! ## The cell that begins a frame -/

/-- An edge that enters RECEIVE, and the rest of its cell: the first instant is in the next cell where FIRST_OFFSET is
from `P` to below `2 P` (30_encoding.md R107). -/
theorem runSamples_entryCell {v : Bool} {s u : State} (hw : s.params.indexWidth = none)
    (hu : SampleEffect v s
      (setTiming s.prevSample s.lastEdgeIndex s.sampleIndex (s.sampleIndex + s.params.firstOffset) u))
    (hf : u.fstate = .receive) (hp : 1 ≤ s.params.bitPeriod) (hoffset : s.params.bitPeriod ≤ s.params.firstOffset)
    (hoffset' : s.params.firstOffset < 2 * s.params.bitPeriod) :
    ∃ l, runSamples (cell s.params.bitPeriod v) s
        = .next (setTiming v l (s.sampleIndex + s.params.bitPeriod) (s.sampleIndex + s.params.firstOffset) u)
      ∧ InCell (s.params.firstOffset - s.params.bitPeriod)
        (setTiming v l (s.sampleIndex + s.params.bitPeriod) (s.sampleIndex + s.params.firstOffset) u) := by
  have hparams : u.params = s.params := hu.keeps.1
  obtain ⟨k, hk⟩ : ∃ k, s.params.bitPeriod = 1 + k := ⟨s.params.bitPeriod - 1, by omega⟩
  have hcell : cell s.params.bitPeriod v = v :: List.replicate k v := by
    rw [cell, hk, List.replicate_add]
    rfl
  have hfirst : ∃ l, sampleStep v s
      = .next (setTiming v l (s.sampleIndex + 1) (s.sampleIndex + s.params.firstOffset) u) :=
    ⟨_, hu.sampleStep_eq.trans (finishSample_unbounded (hparams ▸ hw))⟩
  obtain ⟨l, hfirst⟩ := hfirst
  have hheld := runSamples_held (n := k)
    (s := setTiming v l (s.sampleIndex + 1) (s.sampleIndex + s.params.firstOffset) u) (hparams ▸ hw)
    (.inr ⟨hf, by simp only [setTiming_sampleIndex, setTiming_nextBit]; omega⟩)
  rw [hcell, runSamples_cons_next hfirst]
  refine ⟨l, hheld.trans (by rw [hk, ← Nat.add_assoc]; rfl), hparams ▸ hw, hf, ?_, ?_⟩
  · simp only [setTiming_sampleIndex, setTiming_nextBit]; omega
  · simp only [setTiming_params, hparams]; omega

/-! ## Characters (42_character.md R202) -/

theorem InstantEffect.stopOk {s : State} (hm : s.cfg.mode = true) (hf : s.fstate = .receive)
    (hb : s.bitsReceived = 7) (ho : s.outValid = false) :
    InstantEffect false s (endCharacterFrame { s with outUnit := charUnit s.shift, outValid := true }) :=
  fun _ _ _ => .stopOk hm hf rfl hb rfl ho

/-- The seven bits of a character, accepted in order, are its CHAR. -/
theorem charUnit_bitsOfChar (c : BitVec 7) :
    charUnit ((bitsOfChar c).foldl shiftIn 0) = ⟨.char, 1, [c.setWidth 8]⟩ := by
  revert c; decide

/-- The data cells and the stop cell of a character. -/
theorem runSamples_dataAndStop {r : Nat} {s : State} (hc : InCell r s) (hm : s.cfg.mode = true)
    (hb : s.bitsReceived = 0) (hs : s.shift = 0) (ho : s.outValid = false) (c : BitVec 7) :
    ∃ t, runSamples (cells s.params.bitPeriod false (bitsOfChar c) ++ cell s.params.bitPeriod false) s = .next t
      ∧ t.outValid = true ∧ t.outUnit = ⟨.char, 1, [c.setWidth 8]⟩ ∧ t.fstate = .idle ∧ t.prevSample = false
      ∧ t.result = s.result := by
  obtain ⟨p, l, hdata⟩ := runsTo_bitCells hc (bitsOfChar c) (by rw [hb]; simp [bitsOfChar])
  rw [show lineInvert s = false by simp [lineInvert, hm]] at hdata
  rw [runSamples_append_next hdata, acceptBits_eq, hb, hs]
  have hstopCell := hc.later (u := { s with bitsReceived := 7, shift := (bitsOfChar c).foldl shiftIn 0 }) rfl
    hc.receive p l ((bitsOfChar c).length * s.params.bitPeriod)
  obtain ⟨l', hstop⟩ := runSamples_cell hstopCell (.stopOk hm hc.receive rfl ho) (.inl rfl)
  exact ⟨_, hstop, rfl, charUnit_bitsOfChar c, rfl, rfl, rfl⟩

/-- Settles O50: the start edge schedules the first instant `FIRST_OFFSET - P` samples into the first data cell, so
every data cell gives one bit and the stop cell emits. -/
theorem everyCharacterRoundTrips : Obligations.EveryCharacterRoundTrips := by
  intro s c href hm hf hp ho hoffset hoffset'
  obtain ⟨hperiod, -⟩ := (parameterCheckIsExact s.params).1 href.valid
  have hrise : edgeOf true s = true := by simp [edgeOf, hp]
  obtain ⟨l, hstart, hc⟩ := runSamples_entryCell (u := goState .receive (characterClear s)) href.unbounded
    (.rise hm hf hrise rfl) rfl hperiod hoffset hoffset'
  obtain ⟨t, hrest, hvalid, hunit, hidle, hprev, hresult⟩ := runSamples_dataAndStop hc hm rfl rfl ho c
  have hrun : runSamples (characterFrame s.params.bitPeriod c) s = .next t := by
    rw [characterFrame, List.append_assoc, runSamples_append_next hstart]
    exact hrest
  refine ⟨t, hrun, hvalid, hunit, hidle, hprev, hresult, ?_⟩
  rw [runSamples_sampleIndex hrun]
  simp [characterFrame, cell, cells, bitsOfChar]
  ring

end Sys2Proof.Machine

/-! PROOFS. Packets in the reference semantics (spec/41_packet.md R176): the lock, preamble and sync edges, the bytes of
a frame, and the whole line frame. -/

namespace Sys2Proof.Machine

/-! ## The preamble (41_packet.md R152, R156) -/

/-- An edge in the 1× window locks, or extends the preamble. -/
theorem SampleEffect.of_preambleEdge {s : State} (hm : s.cfg.mode = false)
    (hf : s.fstate = .idle ∨ s.fstate = .preamble) (h1 : windowMatch s.params 1 (intervalOf s) = true)
    (h4 : s.fstate = .preamble → windowMatch s.params 4 (intervalOf s) = false) :
    SampleEffect (!s.prevSample) s (goState .preamble s) := by
  have hedge : edgeOf (!s.prevSample) s = true := by simp [edgeOf]
  have hw1 : windowOf 1 (!s.prevSample) s = true := by rw [windowOf, hedge, h1]; rfl
  obtain hf | hf := hf
  · exact .lock hm hf hw1
  · have hw4 : windowOf 4 (!s.prevSample) s = false := by rw [windowOf, h4 hf, Bool.and_false]
    have hsame : goState .preamble s = s := by rw [goState, ← hf]
    rw [hsame]
    exact .extend hm hf hw4 hw1

/-- A preamble edge, and the level held after it. -/
theorem runSamples_gap {s : State} {g : Nat} (hw : s.params.indexWidth = none) (hm : s.cfg.mode = false)
    (hedge : SampleEffect (!s.prevSample) s (goState .preamble s)) (hg : 1 ≤ g) :
    runSamples (List.replicate g (!s.prevSample)) s
      = .next (setTiming (!s.prevSample) s.sampleIndex (s.sampleIndex + g) s.nextBit (goState .preamble s)) := by
  obtain ⟨k, rfl⟩ : ∃ k, g = 1 + k := ⟨g - 1, by omega⟩
  have he : edgeOf (!s.prevSample) s = true := by simp [edgeOf]
  have hfirst : sampleStep (!s.prevSample) s
      = .next (setTiming (!s.prevSample) s.sampleIndex (s.sampleIndex + 1) s.nextBit (goState .preamble s)) := by
    rw [hedge.sampleStep_eq, finishSample_unbounded (by exact hw), he]
    rfl
  have hheld := runSamples_quiet
    (s := setTiming (!s.prevSample) s.sampleIndex (s.sampleIndex + 1) s.nextBit (goState .preamble s)) hw hm
    (.inr rfl) k
  rw [List.replicate_add, List.replicate_one, List.singleton_append, runSamples_cons_next hfirst]
  exact hheld.trans (by rw [← Nat.add_assoc]; rfl)

/-- The preamble edges and the level held up to the sync edge: `s` is at the lock edge or a preamble edge, `gaps` are
the gaps after it but the last. -/
theorem runSamples_preamble {s : State} (gaps : List Nat) {sync : Nat} (href : Reference s) (hm : s.cfg.mode = false)
    (hedge : SampleEffect (!s.prevSample) s (goState .preamble s))
    (hgaps : ∀ g ∈ gaps, 1 ≤ g ∧ windowMatch s.params 1 g = true) (hsync : 1 ≤ sync) :
    runSamples (heldLevels (!s.prevSample) (gaps ++ [sync])) s
      = .next (setTiming (!levelAfter (!s.prevSample) (gaps ++ [sync])) (s.sampleIndex + gaps.sum : Nat)
          (s.sampleIndex + gaps.sum + sync) s.nextBit (goState .preamble s)) := by
  induction gaps generalizing s with
  | nil => simpa [heldLevels, levelAfter] using runSamples_gap href.unbounded hm hedge hsync
  | cons g gaps ih =>
    obtain ⟨⟨hg, hg1⟩, hgaps⟩ := List.forall_mem_cons.1 hgaps
    obtain ⟨-, -, -, -, hdisjoint, -⟩ := (parameterCheckIsExact s.params).1 href.valid
    have hfirst := runSamples_gap href.unbounded hm hedge hg
    set x := setTiming (!s.prevSample) s.sampleIndex (s.sampleIndex + g) s.nextBit (goState .preamble s) with hx
    have hinterval : intervalOf x = g := by simp [hx, intervalOf]
    have hnext : SampleEffect (!x.prevSample) x (goState .preamble x) :=
      .of_preambleEdge hm (.inr rfl) (by rw [hinterval]; exact hg1)
        fun _ => by rw [hinterval]; simpa [hx, hg1] using hdisjoint g
    have hrest := ih (s := x) ⟨href.valid, href.unbounded⟩ hm hnext hgaps
    rw [List.cons_append, heldLevels, levelAfter, runSamples_append_next hfirst]
    refine hrest.trans ?_
    rw [List.sum_cons, ← Nat.add_assoc]
    rfl

/-! ## Bytes -/

theorem foldl_shiftIn_bitsOfByte (b : Byte) : (bitsOfByte b).foldl shiftIn 0 = b := by
  revert b; decide

/-- The eight bits of a byte, accepted in order into an empty accumulator. -/
theorem acceptBits_bitsOfByte {s : State} (hs : s.shift = 0) (b : Byte) :
    acceptBits (bitsOfByte b) s = { s with bitsReceived := s.bitsReceived + 8, shift := b } := by
  rw [acceptBits_eq, hs, foldl_shiftIn_bitsOfByte]
  rfl

/-- The bits of a byte but the last. -/
def leadBits (b : Byte) : List Bool := (bitsOfByte b).dropLast

theorem bitsOfByte_eq (b : Byte) : bitsOfByte b = leadBits b ++ [b.getLsbD 0] := rfl

theorem leadBits_length (b : Byte) : (leadBits b).length = 7 := rfl

theorem lineInvert_packet {s : State} (hm : s.cfg.mode = false) : lineInvert s = s.invert := by simp [lineInvert, hm]

theorem cells_append (p : Nat) (inv : Bool) (bits bits' : List Bool) :
    cells p inv (bits ++ bits') = cells p inv bits ++ cells p inv bits' := List.flatMap_append

theorem cells_singleton (p : Nat) (inv b : Bool) : cells p inv [b] = cell p (b ^^ inv) := by simp [cells]

/-- The instant of a byte's last bit has the effect of the whole byte. -/
theorem InstantEffect.of_lastBit {s u : State} {b : Byte} (hm : s.cfg.mode = false) (hf : s.fstate = .receive)
    (h : BitEffect (acceptBits (bitsOfByte b) s) u) :
    InstantEffect (b.getLsbD 0 ^^ s.invert) (acceptBits (leadBits b) s) u := by
  have hbit : effectiveBit (b.getLsbD 0 ^^ s.invert) (acceptBits (leadBits b) s) = b.getLsbD 0 := by
    simp [effectiveBit]
  have hlast : acceptBits (bitsOfByte b) s = acceptBit (b.getLsbD 0) (acceptBits (leadBits b) s) := by
    rw [bitsOfByte_eq, acceptBits, List.foldl_append]
    rfl
  refine .of_bitEffect ((acceptBits_cfg ..).symm ▸ hm) ((acceptBits_fstate ..).trans hf) ?_
  rwa [hbit, ← hlast]

section Bytes

variable {r : Nat} {s : State} (hc : InCell r s) (hm : s.cfg.mode = false) (hb : s.bitsReceived % 8 = 0)
include hc hm hb

theorem runsTo_leadBits (b : Byte) : RunsTo (cells s.params.bitPeriod s.invert (leadBits b)) s
    (acceptBits (leadBits b) s) (s.sampleIndex + 7 * s.params.bitPeriod) (s.nextBit + 7 * s.params.bitPeriod) := by
  have h := runsTo_bitCells hc (leadBits b) (by rw [leadBits_length, hb]; decide)
  rwa [lineInvert_packet hm, leadBits_length] at h

/-- A byte up to the instant of its last bit, at level `v`. -/
theorem runsTo_lastInstant (b : Byte) (v : Bool) :
    RunsTo (cells s.params.bitPeriod s.invert (leadBits b) ++ List.replicate r v) s (acceptBits (leadBits b) s)
      (s.nextBit + 7 * s.params.bitPeriod) (s.nextBit + 7 * s.params.bitPeriod) :=
  (runsTo_leadBits hc hm hb b).append fun p l =>
    runsTo_instant (hc.later (acceptBits_params ..) ((acceptBits_fstate ..).trans hc.receive) p l _)

/-- The cells of a byte have the effect of the byte. -/
theorem runsTo_byteCells {b : Byte} {u : State} (h : BitEffect (acceptBits (bitsOfByte b) s) u)
    (hu : u.fstate = .receive) : RunsTo (cells s.params.bitPeriod s.invert (bitsOfByte b)) s u
      (s.sampleIndex + 8 * s.params.bitPeriod) (s.nextBit + 8 * s.params.bitPeriod) := by
  obtain ⟨p, l, hlead⟩ := runsTo_leadBits hc hm hb b
  have hlast := InstantEffect.of_lastBit hm hc.receive h
  have hcell := hc.later (acceptBits_params (leadBits b) s) ((acceptBits_fstate ..).trans hc.receive) p l
    (7 * s.params.bitPeriod)
  obtain ⟨l', hrun⟩ := runSamples_cell hcell (fun p l n => hlast p l n) (.inr hu)
  have h8 : 8 * s.params.bitPeriod = 7 * s.params.bitPeriod + s.params.bitPeriod := by ring
  simp only [setTiming_params, setTiming_sampleIndex, setTiming_nextBit, acceptBits_params] at hrun
  rw [bitsOfByte_eq, cells_append, cells_singleton, h8, ← Nat.add_assoc, ← Nat.add_assoc]
  exact ⟨_, l', (runSamples_append_next hlead).trans hrun⟩

end Bytes

/-! ## The bytes of a frame -/

/-- `s` at the end of a byte of a frame: the length `n` is stored and `bytes` are received. -/
def withBytes (n : Nat) (bytes : List Byte) (s : State) : State :=
  { s with bitsReceived := 8 + 8 * bytes.length, shift := 0, length := n, payload := bytes }

theorem decodedLength_lengthByte {n : Nat} (hpos : 1 ≤ n) (hmax : n ≤ 256) : decodedLength (lengthByte n) = n := by
  obtain rfl | hlt := hmax.eq_or_lt
  · rfl
  · have hval : (lengthByte n).toNat = n := by simp [lengthByte, Nat.mod_eq_of_lt hlt]
    have hne : lengthByte n ≠ 0 := fun h0 => by simp [h0] at hval; omega
    rw [decodedLength, if_neg hne, hval]

/-- The length byte is stored. -/
theorem BitEffect.of_lengthByte {s : State} {n : Nat} (hb : s.bitsReceived = 0) (hs : s.shift = 0)
    (hp : s.payload = []) (hpos : 1 ≤ n) (hmax : n ≤ s.params.maxLen) (hmax' : s.params.maxLen ≤ 256)
    (ht : s.cfg.test = true → n = 2) :
    BitEffect (acceptBits (bitsOfByte (lengthByte n)) s) (withBytes n [] s) := by
  have hn := decodedLength_lengthByte hpos (hmax.trans hmax')
  have heq : withBytes n [] s = { acceptBits (bitsOfByte (lengthByte n)) s with
      length := decodedLength (acceptBits (bitsOfByte (lengthByte n)) s).shift, shift := 0 } := by
    rw [acceptBits_bitsOfByte hs]
    simp [withBytes, hb, hp, hn]
  rw [heq]
  apply BitEffect.accepted
  · rw [acceptBits_bitsOfByte hs, hb]
  · rw [lengthRejected_eq_false, acceptBits_bitsOfByte hs, hn]
    rintro (h | ⟨htest, hne⟩)
    · exact Nat.not_lt.2 hmax h
    · exact hne (ht htest)

/-- A payload byte that is not the last is appended. -/
theorem BitEffect.of_payloadByte {s : State} {n : Nat} {bytes : List Byte} (b : Byte) (hmore : bytes.length + 1 < n) :
    BitEffect (acceptBits (bitsOfByte b) (withBytes n bytes s)) (withBytes n (bytes ++ [b]) s) := by
  have heq : withBytes n (bytes ++ [b]) s = appendByte (acceptBits (bitsOfByte b) (withBytes n bytes s)) := by
    rw [acceptBits_bitsOfByte (s := withBytes n bytes s) rfl]
    simp [withBytes, appendByte, Nat.mul_add, Nat.add_assoc]
  rw [heq, acceptBits_bitsOfByte (s := withBytes n bytes s) rfl]
  refine .payloadByte ?_ ?_ ?_
  · simp [withBytes]
  · simp [withBytes]
  · simp only [withBytes]; omega

/-- What the state `t` holds after the frame of `payload`, the framer having run from `s`: outside test mode the PACKET,
in test mode the TEST_LINE of its first byte if the second is its complement, and else one INTEGRITY_FAIL. -/
def Decoded (s : State) (payload : List Byte) (t : State) : Prop :=
  (s.cfg.test = false →
      t.outValid = true ∧ t.outUnit = ⟨.packet, payload.length, payload⟩ ∧ t.result = s.result)
    ∧ (∀ id check, s.cfg.test = true → payload = [id, check] → check = ~~~id →
      t.outValid = true ∧ t.outUnit = testLineUnit id ∧ t.result = s.result)
    ∧ (∀ id check, s.cfg.test = true → payload = [id, check] → check ≠ ~~~id →
      t.outValid = false ∧ t.errIntegrity = true
        ∧ t.result = { s.result with events := s.result.events ++ [⟨.integrityFail, .pair id check⟩] })

/-- The last byte completes the frame. -/
theorem exists_completion {s : State} {bytes : List Byte} (b : Byte) (ho : s.outValid = false)
    (ht : s.cfg.test = true → bytes.length = 1) :
    ∃ u, BitEffect (acceptBits (bitsOfByte b) (withBytes (bytes.length + 1) bytes s)) u ∧ u.fstate = .idle
      ∧ Decoded s (bytes ++ [b]) u := by
  rw [acceptBits_bitsOfByte (s := withBytes (bytes.length + 1) bytes s) rfl]
  have hb : 8 < (withBytes (bytes.length + 1) bytes s).bitsReceived + 8 := by simp [withBytes]
  have h8 : ((withBytes (bytes.length + 1) bytes s).bitsReceived + 8 - 8) % 8 = 0 := by simp [withBytes]
  cases htest : s.cfg.test
  case false =>
    refine ⟨_, .packet hb h8 rfl htest ho, rfl, ?_⟩
    refine ⟨fun _ => ⟨rfl, rfl, rfl⟩, ?_, ?_⟩ <;> simp [htest]
  case true =>
    obtain ⟨id, rfl⟩ := List.length_eq_one_iff.1 (ht htest)
    by_cases hc : b = ~~~id
    · refine ⟨_, .testLine id hb h8 rfl htest rfl (hc.trans (complement_eq id).symm) ho, rfl, ?_⟩
      refine ⟨by simp [htest], ?_, ?_⟩
      · rintro _ _ - ⟨⟩ -
        exact ⟨rfl, rfl, rfl⟩
      · rintro _ _ - ⟨⟩ hne
        exact absurd hc hne
    · refine ⟨_, .integrityFail id hb h8 rfl htest rfl (complement_eq id ▸ hc), rfl, ?_⟩
      refine ⟨by simp [htest], ?_, ?_⟩
      · rintro _ _ - ⟨⟩ heq
        exact absurd heq hc
      · rintro _ _ - ⟨⟩ -
        exact ⟨ho, by simp, rfl⟩

/-- The samples of a frame of the bytes `bytes` and `b` before the instant of its last bit, which is `r` samples into
its cell. -/
def beforeLastInstant (p r : Nat) (inv : Bool) (bytes : List Byte) (b : Byte) : List Bool :=
  cells p inv ((lengthByte (bytes.length + 1) :: bytes).flatMap bitsOfByte)
    ++ (cells p inv (leadBits b) ++ List.replicate r (b.getLsbD 0 ^^ inv))

theorem cells_frame_eq {p r : Nat} (hr : r < p) (inv : Bool) (bytes : List Byte) (b : Byte) :
    cells p inv ((lengthByte (bytes.length + 1) :: (bytes ++ [b])).flatMap bitsOfByte)
      = beforeLastInstant p r inv bytes b
        ++ (b.getLsbD 0 ^^ inv) :: List.replicate (p - r - 1) (b.getLsbD 0 ^^ inv) := by
  rw [← List.cons_append, List.flatMap_append, List.flatMap_singleton, bitsOfByte_eq, cells_append, cells_append,
    cells_singleton, cell_eq hr, beforeLastInstant]
  simp only [List.append_assoc]

section Frame

variable {r : Nat} {s : State} (hc : InCell r s) (hm : s.cfg.mode = false)
include hc hm

/-- Payload bytes that do not complete the frame are appended in order. -/
theorem runsTo_payload {n : Nat} (done bytes : List Byte) (hmore : done.length + bytes.length < n) :
    RunsTo (cells s.params.bitPeriod s.invert (bytes.flatMap bitsOfByte)) (withBytes n done s)
      (withBytes n (done ++ bytes) s) (s.sampleIndex + bytes.length * (8 * s.params.bitPeriod))
      (s.nextBit + bytes.length * (8 * s.params.bitPeriod)) := by
  induction bytes generalizing s done with
  | nil => exact ⟨s.prevSample, s.lastEdgeIndex, by simp [cells, setTiming, withBytes]⟩
  | cons b bytes ih =>
    rw [List.length_cons] at hmore
    obtain ⟨p, l, hbyte⟩ := runsTo_byteCells (s := withBytes n done s)
      ⟨hc.unbounded, hc.receive, hc.instant, hc.inside⟩ hm (by simp [withBytes])
      (.of_payloadByte b (by omega)) hc.receive
    obtain ⟨p', l', hrest⟩ := ih (hc.later rfl hc.receive p l (8 * s.params.bitPeriod)) hm (done ++ [b])
      (by rw [List.length_append, List.length_singleton]; omega)
    have hlen : (b :: bytes).length * (8 * s.params.bitPeriod)
        = 8 * s.params.bitPeriod + bytes.length * (8 * s.params.bitPeriod) := by
      rw [List.length_cons]; ring
    rw [List.flatMap_cons, cells_append, hlen, ← Nat.add_assoc, ← Nat.add_assoc]
    refine ⟨p', l', (runSamples_append_next hbyte).trans (hrest.trans ?_)⟩
    rw [List.append_assoc]
    rfl

variable (hb : s.bitsReceived = 0) (hs : s.shift = 0) (hp : s.payload = []) {bytes : List Byte}
  (hmax : bytes.length + 1 ≤ s.params.maxLen) (hmax' : s.params.maxLen ≤ 256)
  (ht : s.cfg.test = true → bytes.length + 1 = 2)
include hb hs hp hmax hmax' ht

/-- The length byte and the payload bytes before the last. -/
theorem runsTo_frameBytes :
    RunsTo (cells s.params.bitPeriod s.invert ((lengthByte (bytes.length + 1) :: bytes).flatMap bitsOfByte)) s
      (withBytes (bytes.length + 1) bytes s) (s.sampleIndex + (bytes.length + 1) * (8 * s.params.bitPeriod))
      (s.nextBit + (bytes.length + 1) * (8 * s.params.bitPeriod)) := by
  have hlength := runsTo_byteCells hc hm (by rw [hb])
    (.of_lengthByte hb hs hp (Nat.le_add_left 1 _) hmax hmax' ht) hc.receive
  rw [List.flatMap_cons, cells_append, Nat.succ_mul, Nat.add_comm (_ * _), ← Nat.add_assoc, ← Nat.add_assoc]
  exact hlength.append fun p l =>
    runsTo_payload (n := bytes.length + 1) (hc.later rfl hc.receive p l (8 * s.params.bitPeriod)) hm [] bytes
      (by simp)

/-- A frame up to the instant of its last bit. -/
theorem runsTo_beforeLastInstant (b : Byte) :
    RunsTo (beforeLastInstant s.params.bitPeriod r s.invert bytes b) s
      (acceptBits (leadBits b) (withBytes (bytes.length + 1) bytes s))
      (s.nextBit + (bytes.length + 1) * (8 * s.params.bitPeriod) + 7 * s.params.bitPeriod)
      (s.nextBit + (bytes.length + 1) * (8 * s.params.bitPeriod) + 7 * s.params.bitPeriod) := by
  refine (runsTo_frameBytes hc hm hb hs hp hmax hmax' ht).append fun p l => ?_
  have hbytes := hc.later (u := withBytes (bytes.length + 1) bytes s) rfl hc.receive p l
    ((bytes.length + 1) * (8 * s.params.bitPeriod))
  have hmod : (withBytes (bytes.length + 1) bytes s).bitsReceived % 8 = 0 := by simp [withBytes]
  have hend := runsTo_lastInstant hbytes hm hmod b (b.getLsbD 0 ^^ s.invert)
  rw [acceptBits_setTiming] at hend
  exact hend

end Frame

/-! ## Where a line is decoded -/

/-- From `s`, the line `vs` is decoded as `payload` by its sample `last` and not before, and the rest of it changes
nothing. -/
structure DecodesAt (vs : List Bool) (last : Nat) (s : State) (payload : List Byte) : Prop where
  before : ∃ t, runSamples (vs.take last) s = .next t ∧ t.outValid = false ∧ t.result = s.result
  instant : ∃ t, runSamples (vs.take (last + 1)) s = .next t ∧ Decoded s payload t ∧ t.fstate = .idle
  after : ∃ t, runSamples vs s = .next t ∧ Decoded s payload t ∧ t.fstate = .idle

theorem Decoded.congr_left {s s' t : State} {payload : List Byte} (h : Decoded s payload t) (hcfg : s.cfg = s'.cfg)
    (hresult : s.result = s'.result) : Decoded s' payload t := by
  rwa [Decoded, hcfg, hresult] at h

theorem DecodesAt.prepend {us vs : List Bool} {last : Nat} {s t : State} {payload : List Byte}
    (h : DecodesAt vs last t payload) (hrun : runSamples us s = .next t) (hcfg : t.cfg = s.cfg)
    (hresult : t.result = s.result) : DecodesAt (us ++ vs) (us.length + last) s payload := by
  obtain ⟨⟨t₁, h₁, hv, hr⟩, ⟨t₂, h₂, hd₂, hf₂⟩, ⟨t₃, h₃, hd₃, hf₃⟩⟩ := h
  refine ⟨⟨t₁, ?_, hv, hr.trans hresult⟩, ⟨t₂, ?_, hd₂.congr_left hcfg hresult, hf₂⟩,
    ⟨t₃, ?_, hd₃.congr_left hcfg hresult, hf₃⟩⟩
  · rw [List.take_length_add_append, runSamples_append_next hrun, h₁]
  · rw [Nat.add_assoc, List.take_length_add_append, runSamples_append_next hrun, h₂]
  · rw [runSamples_append_next hrun, h₃]

/-- A line is decoded at the sample that completes its frame; a level held after it changes nothing. -/
theorem DecodesAt.of_completion {before : List Bool} {v : Bool} {k : Nat} {s q d : State} {payload : List Byte}
    (hbefore : runSamples before s = .next q) (hq : q.outValid = false ∧ q.result = s.result)
    (hinstant : sampleStep v q = .next d) (hw : d.params.indexWidth = none) (hf : d.fstate = .idle)
    (hv : d.prevSample = v) (hd : Decoded s payload d) :
    DecodesAt (before ++ v :: List.replicate k v) before.length s payload := by
  have hthere : runSamples (before ++ [v]) s = .next d := by
    rw [runSamples_append_next hbefore, runSamples_cons_next hinstant, runSamples_nil]
  subst hv
  have hheld := runSamples_held (n := k) hw (.inl hf)
  refine ⟨⟨q, ?_, hq⟩, ⟨d, ?_, hd, hf⟩, ⟨{ d with sampleIndex := d.sampleIndex + k }, ?_, hd, hf⟩⟩
  · rw [List.take_left, hbefore]
  · rw [List.take_length_add_append, List.take_succ_cons, List.take_zero, hthere]
  · rw [← List.singleton_append, ← List.append_assoc, runSamples_append_next hthere, hheld]

/-- The cells of the length byte and the payload, from the first of them. -/
theorem decodesAt_frameCells {r : Nat} {s : State} {payload : List Byte} (hc : InCell r s) (hm : s.cfg.mode = false)
    (ho : s.outValid = false) (hb : s.bitsReceived = 0) (hs : s.shift = 0) (hp : s.payload = [])
    (hpos : 1 ≤ payload.length) (hmax : payload.length ≤ s.params.maxLen) (hmax' : s.params.maxLen ≤ 256)
    (ht : s.cfg.test = true → payload.length = 2) :
    DecodesAt (cells s.params.bitPeriod s.invert ((lengthByte payload.length :: payload).flatMap bitsOfByte))
      ((8 * payload.length + 7) * s.params.bitPeriod + r) s payload := by
  obtain ⟨bytes, b, rfl⟩ : ∃ bytes b, payload = bytes ++ [b] :=
    ⟨_, _, (List.dropLast_append_getLast (List.ne_nil_of_length_pos hpos)).symm⟩
  rw [List.length_append, List.length_singleton] at *
  obtain ⟨u, hu, hidle, hdecoded⟩ := exists_completion b ho (bytes := bytes) (fun h => by have := ht h; omega)
  obtain ⟨p, l, hbefore⟩ := runsTo_beforeLastInstant hc hm hb hs hp hmax hmax' ht b
  have hlast := InstantEffect.of_lastBit (s := withBytes (bytes.length + 1) bytes s) hm hc.receive hu
  have hwidth : (acceptBits (leadBits b) (withBytes (bytes.length + 1) bytes s)).params.indexWidth = none := by
    rw [acceptBits_params]; exact hc.unbounded
  obtain ⟨l', hinstant⟩ := hlast.sampleStep hwidth p l _
  have hlength : (beforeLastInstant s.params.bitPeriod r s.invert bytes b).length
      = (8 * (bytes.length + 1) + 7) * s.params.bitPeriod + r := by
    have hindex := runSamples_sampleIndex hbefore
    rw [setTiming_sampleIndex, hc.instant] at hindex
    linarith
  have hq : (acceptBits (leadBits b) (withBytes (bytes.length + 1) bytes s)).outValid = false
      ∧ (acceptBits (leadBits b) (withBytes (bytes.length + 1) bytes s)).result = s.result :=
    ⟨(acceptBits_outValid ..).trans ho, acceptBits_result ..⟩
  have hw : u.params.indexWidth = none := by
    rw [hu.keeps.1, acceptBits_params]; exact hc.unbounded
  rw [cells_frame_eq hc.inside, ← hlength]
  exact .of_completion hbefore hq hinstant hw hidle rfl hdecoded

/-! ## The whole line (30_encoding.md R97) -/

/-- The sync cell of a line and the frame that follows, from a framer in PREAMBLE at the sync edge. -/
theorem decodesAt_syncCell {s : State} {payload : List Byte} (href : Reference s) (hm : s.cfg.mode = false)
    (hf : s.fstate = .preamble) (ho : s.outValid = false) (h4 : windowMatch s.params 4 (intervalOf s) = true)
    (hoffset : s.params.bitPeriod ≤ s.params.firstOffset) (hoffset' : s.params.firstOffset < 2 * s.params.bitPeriod)
    (hpos : 1 ≤ payload.length) (hmax : payload.length ≤ s.params.maxLen)
    (ht : s.cfg.test = true → payload.length = 2) :
    DecodesAt (cell s.params.bitPeriod (!s.prevSample)
        ++ cells s.params.bitPeriod (latchedPolarity (!s.prevSample) s)
          ((lengthByte payload.length :: payload).flatMap bitsOfByte))
      (s.params.firstOffset + (8 * payload.length + 7) * s.params.bitPeriod) s payload := by
  obtain ⟨hperiod, -, -, hmax', -⟩ := (parameterCheckIsExact s.params).1 href.valid
  have hw4 : windowOf 4 (!s.prevSample) s = true := by simp [windowOf, edgeOf, h4]
  obtain ⟨l, hsync, hc⟩ := runSamples_entryCell
    (u := goState .receive (frameClear { s with invert := latchedPolarity (!s.prevSample) s })) href.unbounded
    (.sync hm hf hw4) rfl hperiod hoffset hoffset'
  have hframe := (decodesAt_frameCells hc hm ho rfl rfl rfl hpos hmax hmax' ht).prepend hsync rfl rfl
  have hlast : (cell s.params.bitPeriod (!s.prevSample)).length
      + ((8 * payload.length + 7) * s.params.bitPeriod + (s.params.firstOffset - s.params.bitPeriod))
      = s.params.firstOffset + (8 * payload.length + 7) * s.params.bitPeriod := by
    rw [cell, List.length_replicate]
    omega
  rw [← hlast]
  exact hframe

theorem heldLevels_length (level : Bool) (gaps : List Nat) : (heldLevels level gaps).length = gaps.sum := by
  induction gaps generalizing level with
  | nil => rfl
  | cons g gaps ih => rw [heldLevels, List.length_append, List.length_replicate, ih, List.sum_cons]

/-- The gaps of a line up to the sync edge leave the framer in PREAMBLE, one sync gap after its last edge. -/
theorem runSamples_heldLevels {s : State} {lock sync : Nat} {gaps : List Nat} (href : Reference s)
    (hm : s.cfg.mode = false) (hf : s.fstate = .idle)
    (hlock : windowMatch s.params 1 ((s.sampleIndex : Int) + lock - s.lastEdgeIndex) = true)
    (hgaps : ∀ g ∈ gaps, 1 ≤ g ∧ windowMatch s.params 1 g = true) (hsync : 1 ≤ sync) :
    ∃ i, runSamples (heldLevels s.prevSample (lock :: (gaps ++ [sync]))) s
      = .next (setTiming (!levelAfter s.prevSample (lock :: (gaps ++ [sync]))) (i : Nat) (i + sync) s.nextBit
          (goState .preamble s)) := by
  have hheld := runSamples_held (n := lock) href.unbounded (.inl hf)
  have hedge := SampleEffect.of_preambleEdge (s := { s with sampleIndex := s.sampleIndex + lock }) hm (.inl hf)
    (by simpa [intervalOf] using hlock) (by simp [hf])
  refine ⟨s.sampleIndex + lock + gaps.sum, (runSamples_append_next hheld).trans ?_⟩
  exact runSamples_preamble (s := { s with sampleIndex := s.sampleIndex + lock }) gaps
    ⟨href.valid, href.unbounded⟩ hm hedge hgaps hsync

/-- Settles O51: the preamble leads to PREAMBLE at the sync edge, which schedules the first instant into the first cell
of the length byte; each byte then has the effect of its eight bits, and the last one's is the completion. -/
theorem everyPacketRoundTrips : Obligations.EveryPacketRoundTrips := by
  intro s lock sync gaps payload href hm hf ho hlock hgaps hsync hsync4 hoffset hoffset' hpos hmax ht
  obtain ⟨i, hpreamble⟩ := runSamples_heldLevels href hm hf hlock hgaps hsync
  have hinterval (p : Bool) :
      intervalOf (setTiming p (i : Nat) (i + sync) s.nextBit (goState .preamble s)) = sync := by
    simp [intervalOf]
  have hframe := decodesAt_syncCell (payload := payload)
    (s := setTiming (!levelAfter s.prevSample (lock :: (gaps ++ [sync]))) (i : Nat) (i + sync) s.nextBit
      (goState .preamble s)) ⟨href.valid, href.unbounded⟩ hm rfl ho (by rw [hinterval]; exact hsync4) hoffset hoffset'
    hpos hmax ht
  have hline := hframe.prepend hpreamble rfl rfl
  rw [heldLevels_length, setTiming_prevSample, Bool.not_not, ← List.append_assoc, ← Nat.add_assoc] at hline
  obtain ⟨hbefore, hinstant, t, hrun, hdecoded, hidle⟩ := hline
  exact ⟨hbefore, hinstant, t, hrun, hdecoded, hidle, runSamples_sampleIndex hrun⟩

end Sys2Proof.Machine

/-! PROOFS. The extractor and the bit schedule (spec/40_extractor.md), and how a step and a PUSH come to run
(spec/43_host_ops.md R220, R224). -/

namespace Sys2Proof.Machine

/-! ## The window match (40_extractor.md R127) -/

theorem windowLim_absolute {c : Config.Params} (hf : c.windowForm = .absolute) (k : Nat) :
    (windowLim c k : Int) = c.tolNum * c.bitPeriod := by
  simp [windowLim, hf]

theorem windowLim_relative {c : Config.Params} (hf : c.windowForm = .relative) (k : Nat) :
    (windowLim c k : Int) = c.tolNum * k * c.bitPeriod := by
  simp [windowLim, hf]

theorem windowMatch_opened {c : Config.Params} (hb : c.windowBounds = .opened) {k : Nat} {d : Int} :
    windowMatch c k d = true ↔ windowDev c k d < windowLim c k := by
  simp [windowMatch, hb]

theorem windowMatch_closed {c : Config.Params} (hb : c.windowBounds = .closed) {k : Nat} {d : Int} :
    windowMatch c k d = true ↔ windowDev c k d ≤ windowLim c k := by
  simp [windowMatch, hb]

/-- Settles O9: a deviation is within a limit exactly if the signed deviation lies between minus and plus the limit,
whatever the window's centre; the default bands are those of 2/5. -/
theorem windowMatchIsTheToleranceBand : Obligations.WindowMatchIsTheToleranceBand := by
  refine ⟨fun c k d _ => ?_, fun p d => ?_, fun v s k => ?_⟩
  · cases hb : c.windowBounds <;> cases hf : c.windowForm
    case opened.absolute => rw [windowMatch_opened hb, windowDev_lt, windowLim_absolute hf]
    case opened.relative => rw [windowMatch_opened hb, windowDev_lt, windowLim_relative hf]
    case closed.absolute => rw [windowMatch_closed hb, windowDev_le, windowLim_absolute hf]
    case closed.relative => rw [windowMatch_closed hb, windowDev_le, windowLim_relative hf]
  · simp only [windowMatch_withPeriod_iff]
    push_cast
    omega
  · rw [windowOf, Bool.and_eq_true, edgeOf_iff]
    rfl

/-! ## What a sample step leaves (40_extractor.md R125, R132) -/

/-- Settles O15: no row writes the extractor's fields, so they are what the update makes of their values at the start
of the step. -/
theorem everySampleStepUpdatesTheExtractor : Obligations.EverySampleStepUpdatesTheExtractor := by
  intro v s t h
  obtain ⟨u, hu, -, rfl⟩ := sampleStep_next h
  obtain ⟨-, hindex, hlast, -⟩ := hu.keeps
  refine ⟨rfl, ?_, ?_⟩
  · rw [extractorUpdate_sampleIndex, hindex]
  · simp only [extractorUpdate_lastEdgeIndex, edgeOf_iff, hindex, hlast]

/-- Where a row leaves the next instant: in RECEIVE one period on at an instant, and `FIRST_OFFSET` past the sample
where the row enters RECEIVE. -/
theorem SampleEffect.nextBit_eq {v : Bool} {s u : State} (h : SampleEffect v s u) :
    u.nextBit =
      if s.fstate = .receive then
        (if s.sampleIndex = s.nextBit then s.nextBit + s.params.bitPeriod else s.nextBit)
      else if u.fstate = .receive then s.sampleIndex + s.params.firstOffset
      else s.nextBit := by
  cases h with
  | packetIdle _ hf | lock _ hf | preambleQuiet _ hf | extend _ hf | lost _ hf | characterIdle _ hf => simp [hf]
  | sync _ hf | rise _ hf => simp [hf]
  | wait hf hd => rw [if_pos hf, if_neg hd]
  | data _ hf hd | stopOk _ hf hd | stopErr _ hf hd => simp [hf, hd]
  | packetBit u _ hf hd hbit =>
    obtain ⟨hparams, -, hnext, -⟩ := hbit.keeps
    rw [if_pos hf, if_pos hd, advanceSchedule_nextBit, hparams, hnext]
    rfl

/-- Settles O18: the extractor update leaves what the row made of the schedule. -/
theorem scheduleMovesOnlyAtEntryAndInstants : Obligations.ScheduleMovesOnlyAtEntryAndInstants := by
  intro v s t h
  obtain ⟨u, hu, -, rfl⟩ := sampleStep_next h
  exact hu.nextBit_eq

/-! ## What a step runs -/

theorem step_hold {s : State} (hvalid : paramsValid s.params = true) (hi : s.input = []) : step s = .next s := by
  rw [step, if_pos hvalid, fetch, hi]

/-- A number that decodes as a host command word presents the word it decodes as. -/
theorem withFetchWord_hostCmd {nbits w : Nat} {i : Instr} (hformat : formatOf nbits w = .hostCmd)
    (hdecode : decodeTableWord nbits w = some i) (s : State) :
    ∃ h : HostWord, decodeHostCmd h = i ∧ s.withFetchWord nbits w = { s with input := .command h :: s.input } := by
  by_cases hw : w < 2 ^ 11
  · have hword : wordOfNat .hostCmd w = .ok (.hostCmd (BitVec.ofNat 11 w)) := if_pos hw
    rw [decodeTableWord, decodeNat, hformat, hword] at hdecode
    refine ⟨BitVec.ofNat 11 w, Option.some.inj hdecode, ?_⟩
    rw [State.withFetchWord, hformat, hword]
    rfl
  · have hword : wordOfNat .hostCmd w = .error .hostWordTooWide := if_neg hw
    rw [decodeTableWord, decodeNat, hformat, hword] at hdecode
    cases hdecode

/-- Settles O5: by the oldest input; a host command word placed by `withFetchWord` is that input. -/
theorem stepRunsTheDecodedInstruction : Obligations.StepRunsTheDecodedInstruction := by
  intro s rest hvalid
  refine ⟨fun w => step_command hvalid, fun v => step_sample hvalid, step_hold hvalid,
    fun nbits w i hformat hdecode => ?_⟩
  obtain ⟨h, rfl, hplaced⟩ := withFetchWord_hostCmd hformat hdecode s
  rw [hplaced]
  exact step_command (s := { s with input := .command h :: s.input }) hvalid rfl

/-- Settles O38: PUSH asks whether the session is open with an empty register; if so it unpacks the byte. -/
theorem pushIsEightSampleSteps : Obligations.PushIsEightSampleSteps := by
  intro s b
  refine ⟨fun hrefused => execPush_refused ?_, fun hopen hempty => execPush_ready (inReady_iff.2 ⟨hopen, hempty⟩)⟩
  rcases hrefused with h | h <;> simp [inReady, h]

end Sys2Proof.Machine

/-! PROOFS. Packet mode (spec/41_packet.md): what each transition rule leaves, the state graph, what keeps the framer in
IDLE, and how many frames end within one PUSH. -/

namespace Sys2Proof.Machine

/-! ## The rules of edges and of waiting (41_packet.md R151 to R158) -/

/-- Settles O21: each of the rows is the end of a sample step and nothing else. -/
theorem quietRowsOnlyCountTheSample : Obligations.QuietRowsOnlyCountTheSample := by
  intro s v d l w1 w4 hfit
  have hquiet : finishSample v false s = .next { s with prevSample := v, sampleIndex := s.sampleIndex + 1 } :=
    finishSample_of_countersFit hfit
  exact ⟨hquiet, hquiet, hquiet, hquiet, hquiet⟩

/-- Settles O22: each of the rows is the end of a sample step with an edge and nothing else. -/
theorem ignoredEdgesAreOnlyRecorded : Obligations.IgnoredEdgesAreOnlyRecorded := by
  intro s v d l w1 w4 hfit
  have hedge (x : Bool) : finishSample x true s = .next
      { s with prevSample := x, lastEdgeIndex := s.sampleIndex, sampleIndex := s.sampleIndex + 1 } :=
    finishSample_of_countersFit hfit
  exact ⟨hedge v, hedge v, hedge v, hedge v, hedge false⟩

/-- Settles O23: each of the rows moves the framer before the end of the sample step. -/
theorem lockAndLostEdgesMoveTheFramer : Obligations.LockAndLostEdgesMoveTheFramer := by
  intro s v d l w4 hfit
  have hmove (f : FState) : finishSample v true (goState f s) = .next
      { s with
        fstate := f, prevSample := v, lastEdgeIndex := s.sampleIndex, sampleIndex := s.sampleIndex + 1 } :=
    finishSample_of_countersFit (s := goState f s) hfit
  exact ⟨hmove .preamble, hmove .idle⟩

/-- Settles O24: the row's updates are made before the end of the sample step, and only `next_bit` is a counter. -/
theorem syncEdgeStartsAFrame : Obligations.SyncEdgeStartsAFrame := by
  intro s v d l w1 hfit
  exact finishSample_of_countersFit
    (s := goState .receive (frameClear (scheduleFirst { s with invert := latchedPolarity v s }))) hfit

/-! ## P_RX_BIT (41_packet.md R159 to R169) -/

/-- P_RX_BIT ends the instant after the effect of its accepted bit, where the counters fit. -/
theorem exec_pRxBit_of_bitEffect {s u : State} {e v l w1 w4 : Bool}
    (hfit : CountersFit s (s.sampleIndex + 1) (s.nextBit + s.params.bitPeriod)
      (if e then (s.sampleIndex : Int) else s.lastEdgeIndex))
    (hu : BitEffect (acceptBit (effectiveBit v s) s) u) :
    exec (.pRxBit e v l w1 w4) s = .next
      { u with
        nextBit := s.nextBit + s.params.bitPeriod
        prevSample := v
        lastEdgeIndex := if e then (s.sampleIndex : Int) else s.lastEdgeIndex
        sampleIndex := s.sampleIndex + 1 } := by
  obtain ⟨hparams, hindex, hnext, hlast, -⟩ := hu.keeps
  change execPRxBit e v s = _
  rw [execPRxBit, hu.framePhase_eq, andThen_next]
  exact finishInstant_of_countersFit hfit hparams hindex hnext hlast

theorem acceptBit_effectiveBit_shift (v : Bool) (s : State) : (acceptBit (effectiveBit v s) s).shift
    = (s.shift <<< 1) ||| (if (v ^^ s.invert) then 1#8 else 0#8) := shiftIn_eq ..

/-- The accepted bit is the last of a byte where seven bits of the byte stand before it. -/
theorem acceptBit_bitInByte (b : Bool) (s : State) :
    ((acceptBit b s).bitsReceived - 8) % 8 = (s.bitsReceived - 7) % 8 := by
  rw [acceptBit_bitsReceived, Nat.add_sub_add_right s.bitsReceived 1 7]

theorem report_lengthReject (info : EventInfo) (s : State) : report ⟨.lengthReject, info⟩ s =
    { s with
      errLength := true
      result := { s.result with events := s.result.events ++ [⟨.lengthReject, info⟩] } } := by
  simp [report]

theorem report_integrityFail (info : EventInfo) (s : State) : report ⟨.integrityFail, info⟩ s =
    { s with
      errIntegrity := true
      result := { s.result with events := s.result.events ++ [⟨.integrityFail, info⟩] } } := by
  simp [report]

/-- Settles O25: the accepted bit is a length bit before the 8th. -/
theorem lengthBitsShiftIn : Obligations.LengthBitsShiftIn := by
  intro s e v l w1 w4 hb hfit
  rw [← acceptBit_effectiveBit_shift]
  exact exec_pRxBit_of_bitEffect hfit (.lengthBit (Nat.succ_lt_succ hb))

/-- Settles O26: the accepted bit is the 8th, and R163 rejects the decoded length or does not. -/
theorem eighthBitDecidesTheLength : Obligations.EighthBitDecidesTheLength := by
  intro s e v l w1 w4 hb hfit
  have h8 : (acceptBit (effectiveBit v s) s).bitsReceived = 8 := congrArg (· + 1) hb
  rw [← acceptBit_effectiveBit_shift]
  refine ⟨fun hr => ?_, fun hr => ?_⟩
  · rw [exec_pRxBit_of_bitEffect hfit (.rejected h8 (lengthRejected_iff.2 hr)), report_lengthReject]
    rfl
  · rw [exec_pRxBit_of_bitEffect hfit (.accepted h8 (lengthRejected_eq_false.2 hr))]
    simp [decodedLength, hb]

/-- Settles O27: the accepted bit is a payload bit, and completes a byte or does not. -/
theorem payloadBitsPackIntoBytes : Obligations.PayloadBitsPackIntoBytes := by
  intro s e v l w1 w4 hb hfit
  have hpayload : 8 < (acceptBit (effectiveBit v s) s).bitsReceived := Nat.lt_succ_of_le hb
  rw [← acceptBit_bitInByte (effectiveBit v s), ← acceptBit_effectiveBit_shift]
  exact ⟨fun hbit => exec_pRxBit_of_bitEffect hfit (.payloadBit hpayload hbit),
    fun hbyte hmore => exec_pRxBit_of_bitEffect hfit (.payloadByte hpayload hbyte hmore)⟩

/-- Settles O28: the accepted bit completes the frame, and the configuration and the check byte choose what completion
does. -/
theorem completionEmitsOrReports : Obligations.CompletionEmitsOrReports := by
  intro s e v l w1 w4 hb hbyte hlast hfit
  have hpayload : 8 < (acceptBit (effectiveBit v s) s).bitsReceived := Nat.lt_succ_of_le hb
  rw [← acceptBit_bitInByte (effectiveBit v s)] at hbyte
  rw [← acceptBit_effectiveBit_shift]
  refine ⟨fun ht ho => ?_, fun id ht hp hc ho => ?_, fun id ht hp hc => ?_⟩
  · have hunit (b : Byte) : packetUnit (s.payload ++ [b]) = ⟨.packet, s.length, s.payload ++ [b]⟩ := by
      rw [packetUnit, List.length_append, List.length_singleton, hlast]
    rw [exec_pRxBit_of_bitEffect hfit (.packet hpayload hbyte hlast ht ho), acceptBit_payload, hunit]
    rfl
  · rw [← complement_eq] at hc
    exact exec_pRxBit_of_bitEffect hfit (.testLine id hpayload hbyte hlast ht hp hc ho)
  · rw [← complement_eq] at hc
    rw [exec_pRxBit_of_bitEffect hfit (.integrityFail id hpayload hbyte hlast ht hp hc), report_integrityFail]
    rfl

/-! ## The state graph (41_packet.md R150) -/

/-- An accepted bit ends the frame where its length is rejected or the payload is complete, and else stays in it. -/
theorem BitEffect.fstate_eq {s u : State} (h : BitEffect s u) :
    u.fstate =
      if (s.bitsReceived = 8 ∧ lengthRejected (decodedLength s.shift) s = true)
          ∨ (8 < s.bitsReceived ∧ (s.bitsReceived - 8) % 8 = 0 ∧ s.payload.length + 1 = s.length)
      then .idle else s.fstate := by
  cases h with
  | lengthBit hb => rw [if_neg (by omega)]
  | rejected hb hr => rw [if_pos (.inl ⟨hb, hr⟩)]; rfl
  | accepted hb hr => rw [if_neg (by simp [hb, hr])]
  | payloadBit hb h8 => rw [if_neg (by omega)]
  | payloadByte hb h8 hl => rw [if_neg (by omega)]; rfl
  | packet hb h8 hl | testLine _ hb h8 hl | integrityFail _ hb h8 hl => rw [if_pos (.inr ⟨hb, h8, hl⟩)]; rfl

section PacketGraph

variable {v : Bool} {s t : State} (hm : s.cfg.mode = false) (h : sampleStep v s = .next t)
include hm h

theorem fstate_of_packetIdle (hf : s.fstate = .idle) :
    t.fstate = if windowOf 1 v s then .preamble else .idle := by
  rw [sampleStep_packet_idle hm hf] at h
  obtain ⟨-, rfl⟩ := finishSample_eq_next.1 h
  rw [extractorUpdate_fstate]
  split
  · rfl
  · exact hf

theorem fstate_of_preamble (hf : s.fstate = .preamble) :
    t.fstate =
      if !edgeOf v s then .preamble
      else if windowMatch s.params 4 (intervalOf s) then .receive
      else if windowMatch s.params 1 (intervalOf s) then .preamble else .idle := by
  rw [sampleStep_packet_preamble hm hf] at h
  cases he : edgeOf v s
  case false =>
    rw [he, if_neg (by simp)] at h
    obtain ⟨-, rfl⟩ := finishSample_eq_next.1 h
    exact hf
  case true =>
    have hwindow (k : Nat) : windowOf k v s = windowMatch s.params k (intervalOf s) := by
      rw [windowOf, he, Bool.true_and]
    rw [if_pos he, hwindow, hwindow] at h
    rw [if_neg (by simp)]
    split at h
    next h4 =>
      obtain ⟨-, rfl⟩ := finishSample_eq_next.1 h
      rw [if_pos h4]
      rfl
    next h4 =>
      rw [if_neg h4]
      split at h
      next h1 =>
        obtain ⟨-, rfl⟩ := finishSample_eq_next.1 h
        rw [if_pos h1]
        exact hf
      next h1 =>
        obtain ⟨-, rfl⟩ := finishSample_eq_next.1 h
        rw [if_neg h1]
        rfl

theorem fstate_of_packetWait (hf : s.fstate = .receive) (hd : s.sampleIndex ≠ s.nextBit) :
    t.fstate = .receive := by
  rw [sampleStep_packet_receive hm hf, if_neg hd] at h
  obtain ⟨-, rfl⟩ := finishSample_eq_next.1 h
  exact hf

/-- At an instant of a packet an accepted bit decides the state. -/
theorem exists_bitEffect_of_instant (hf : s.fstate = .receive) (hd : s.sampleIndex = s.nextBit) :
    ∃ u, BitEffect (acceptBit (effectiveBit v s) s) u ∧ t.fstate = u.fstate := by
  rw [sampleStep_packet_receive hm hf, if_pos hd] at h
  obtain ⟨u, hu, -, rfl⟩ := execPRxBit_next h
  exact ⟨u, framePhase_next hu, rfl⟩

end PacketGraph

/-- Settles O20: by the state the sample is stepped in; in RECEIVE, at an instant, by the effect of the accepted bit. -/
theorem packetStateGraph : Obligations.PacketStateGraph := by
  intro v s t hm h
  refine ⟨fstate_of_packetIdle hm h, fstate_of_preamble hm h, fstate_of_packetWait hm h, fun hf hd => ?_⟩
  obtain ⟨u, hu, ht⟩ := exists_bitEffect_of_instant hm h hf hd
  rw [ht, hu.fstate_eq, acceptBit_bitInByte, acceptBit_effectiveBit_shift, acceptBit_fstate, hf]
  simp [lengthRejected_iff, decodedLength]

/-! ## Without a lock edge (41_packet.md R175) -/

/-- The first sample of a sequence without a lock edge is none, and the rest is such a sequence after its extractor
update. -/
theorem noLockEdge_cons {v : Bool} {vs : List Bool} {s : State} :
    noLockEdge s.params s.sampleIndex s.lastEdgeIndex s.prevSample (v :: vs) = true
      ↔ windowOf 1 v s = false
        ∧ noLockEdge s.params (s.sampleIndex + 1) (extractorUpdate v (edgeOf v s) s).lastEdgeIndex v vs = true := by
  by_cases hv : v = s.prevSample <;> simp [noLockEdge, windowOf, edgeOf, intervalOf, hv]

/-- Settles O53: by induction on the samples; each is only counted or recorded as an edge. -/
theorem noLockEdgeKeepsPacketIdle : Obligations.NoLockEdgeKeepsPacketIdle := by
  intro vs
  induction vs with
  | nil => exact fun s _ _ hf _ => ⟨s, rfl, hf, rfl, rfl, rfl, rfl⟩
  | cons v vs ih =>
    intro s hw hm hf hno
    obtain ⟨hfirst, hrest⟩ := noLockEdge_cons.1 hno
    have hstep : sampleStep v s = .next (extractorUpdate v (edgeOf v s) s) :=
      (SampleEffect.packetIdle hm hf hfirst).sampleStep_eq.trans (finishSample_unbounded hw)
    obtain ⟨t, hrun, hidle, hvalid, hunit, hresult, -⟩ := ih (extractorUpdate v (edgeOf v s) s) hw hm hf hrest
    rw [← runSamples_cons_next hstep] at hrun
    exact ⟨t, hrun, hidle, hvalid, hunit, hresult, runSamples_sampleIndex hrun⟩

/-! ## At most one frame end in eight samples (41_packet.md R173, 42_character.md R201, 60_exceptions.md R261) -/

/-- The next frame end is more than `n` samples away: a frame that has begun lacks more bits than that, and one that has
not begun needs a sample to begin and eight instants or more. -/
def FrameEndFar (n : Nat) (s : State) : Prop := n ≤ 7 ∧ (s.fstate = .receive → n + s.bitsReceived ≤ 7)

theorem FrameEndFar.of_idle {n : Nat} {s : State} (hn : n ≤ 7) (hf : s.fstate = .idle) : FrameEndFar n s :=
  ⟨hn, by simp [hf]⟩

section NextSample

variable {n : Nat} {s u : State} (h : FrameEndFar (n + 1) s)
include h

theorem FrameEndFar.of_bitsReceived_le (hf : s.fstate = .receive) (hb : u.bitsReceived ≤ s.bitsReceived + 1) :
    FrameEndFar n u := by
  obtain ⟨hn, hbits⟩ := h
  have := hbits hf
  exact ⟨by omega, fun _ => by omega⟩

theorem FrameEndFar.of_outsideFrame (hu : u.fstate = .receive → u.bitsReceived = 0) : FrameEndFar n u := by
  obtain ⟨hn, -⟩ := h
  exact ⟨by omega, fun hf => by have := hu hf; omega⟩

theorem FrameEndFar.pred : FrameEndFar n s := by
  obtain ⟨hn, hbits⟩ := h
  exact ⟨by omega, fun hf => by have := hbits hf; omega⟩

/-- No frame ends at the next sample where the next end is farther away. -/
theorem FrameEndFar.bitsReceived_lt (hf : s.fstate = .receive) : s.bitsReceived < 7 := by
  obtain ⟨-, hbits⟩ := h
  have := hbits hf
  omega

end NextSample

/-- What a row makes of the output, `s` before it and `u` after it. -/
inductive OutputEffect (s u : State) : Prop where
  /-- nothing; then the row takes one sample and at most one bit of those a frame end is away -/
  | quiet (hv : u.outValid = s.outValid) (hr : u.result = s.result)
      (hfar : ∀ n, FrameEndFar (n + 1) s → FrameEndFar n u)
  /-- a unit emitted at a frame end -/
  | emits (hv : u.outValid = true) (hr : u.result = s.result) (hf : s.fstate = .receive) (hb : 7 ≤ s.bitsReceived)
      (hidle : u.fstate = .idle)
  /-- an event reported at a frame end -/
  | reports (ev : Event) (hev : ev.code ≠ .sessionEnd) (hv : u.outValid = s.outValid)
      (hr : u.result = { s.result with events := s.result.events ++ [ev] }) (hf : s.fstate = .receive)
      (hb : 7 ≤ s.bitsReceived) (hidle : u.fstate = .idle)

/-- An accepted bit emits or reports only where seven bits stand before it. -/
theorem BitEffect.outputEffect {b : Bool} {s u : State} (hf : s.fstate = .receive) (h : BitEffect (acceptBit b s) u) :
    OutputEffect s u := by
  cases h with
  | lengthBit | accepted | payloadBit | payloadByte =>
    exact .quiet rfl rfl fun _ hfar => hfar.of_bitsReceived_le hf (Nat.le_refl _)
  | rejected hb => exact .reports _ (by simp) rfl rfl hf (Nat.le_of_lt_succ hb.ge) rfl
  | packet hb | testLine _ hb => exact .emits rfl rfl hf (Nat.le_of_succ_le (Nat.le_of_lt_succ hb)) rfl
  | integrityFail _ hb => exact .reports _ (by simp) rfl rfl hf (Nat.le_of_succ_le (Nat.le_of_lt_succ hb)) rfl

theorem OutputEffect.advanceSchedule {s u : State} (h : OutputEffect s u) : OutputEffect s (advanceSchedule u) := by
  cases h with
  | quiet hv hr hfar => exact .quiet hv hr hfar
  | emits hv hr hf hb hidle => exact .emits hv hr hf hb hidle
  | reports ev hev hv hr hf hb hidle => exact .reports ev hev hv hr hf hb hidle

/-- A row emits or reports only at the end of a frame. -/
theorem SampleEffect.outputEffect {v : Bool} {s u : State} (h : SampleEffect v s u) : OutputEffect s u := by
  cases h with
  | packetIdle | preambleQuiet | extend | wait | characterIdle => exact .quiet rfl rfl fun _ hfar => hfar.pred
  | lock | lost | sync | rise => exact .quiet rfl rfl fun _ hfar => hfar.of_outsideFrame (by simp)
  | packetBit _ _ hf _ hbit => exact (hbit.outputEffect hf).advanceSchedule
  | data _ hf => exact .quiet rfl rfl fun _ hfar => hfar.of_bitsReceived_le hf (Nat.le_refl _)
  | stopOk _ hf _ hb => exact .emits rfl rfl hf hb.ge rfl
  | stopErr _ hf _ hb => exact .reports _ (by simp) rfl rfl hf hb.ge rfl

/-- A PUSH with `n` of its samples left: no frame has ended in it, or one has, with a unit or with an event, and the
next end is past the last sample. -/
inductive PushProgress (n : Nat) (s : State) : Prop where
  | noEnd (hv : s.outValid = false) (hr : s.result = ⟨true, [], .none⟩)
  | emitted (hv : s.outValid = true) (hr : s.result = ⟨true, [], .none⟩) (hfar : FrameEndFar n s)
  | reported (ev : Event) (hev : ev.code ≠ .sessionEnd) (hv : s.outValid = false)
      (hr : s.result = ⟨true, [ev], .none⟩) (hfar : FrameEndFar n s)

theorem PushProgress.frameEndFar {n : Nat} {s : State} (h : PushProgress n s) :
    (s.outValid = false ∧ s.result = ⟨true, [], .none⟩) ∨ FrameEndFar n s := by
  cases h with
  | noEnd hv hr => exact .inl ⟨hv, hr⟩
  | emitted _ _ hfar | reported _ _ _ _ hfar => exact .inr hfar

theorem PushProgress.sampleStep {n : Nat} {v : Bool} {s t : State} (h : PushProgress (n + 1) s) (hn : n ≤ 7)
    (hstep : sampleStep v s = .next t) : PushProgress n t := by
  obtain ⟨u, hu, -, rfl⟩ := sampleStep_next hstep
  have hnone (hf : s.fstate = .receive) (hb : 7 ≤ s.bitsReceived) :
      s.outValid = false ∧ s.result = ⟨true, [], .none⟩ :=
    h.frameEndFar.resolve_right fun hfar => absurd (hfar.bitsReceived_lt hf) (by omega)
  cases hu.outputEffect with
  | quiet hv hr hfar =>
    cases h with
    | noEnd hv' hr' => exact .noEnd (hv.trans hv') (hr.trans hr')
    | emitted hv' hr' hfar' => exact .emitted (hv.trans hv') (hr.trans hr') (hfar n hfar')
    | reported ev hev hv' hr' hfar' => exact .reported ev hev (hv.trans hv') (hr.trans hr') (hfar n hfar')
  | emits hv hr hf hb hidle => exact .emitted hv (hr.trans (hnone hf hb).2) (.of_idle hn hidle)
  | reports ev hev hv hr hf hb hidle =>
    obtain ⟨hv', hr'⟩ := hnone hf hb
    exact .reported ev hev (hv.trans hv') (hr.trans (by rw [hr']; rfl)) (.of_idle hn hidle)

theorem PushProgress.runSamples {vs : List Bool} {s t : State} (h : PushProgress vs.length s) (hlen : vs.length ≤ 8)
    (hrun : runSamples vs s = .next t) : PushProgress 0 t := by
  induction vs generalizing s with
  | nil => cases hrun; exact h
  | cons v vs ih =>
    obtain ⟨u, hu, hrun⟩ := andThen_eq_next.1 hrun
    rw [List.length_cons] at h hlen
    exact ih (h.sampleStep (by omega) hu) (by omega) hrun

/-- The result record and the output register of a PUSH under way. -/
theorem PushProgress.result {n : Nat} {s : State} (h : PushProgress n s) :
    s.result.accepted = true ∧ s.result.data = .none ∧ s.result.events.length ≤ 1
      ∧ (s.outValid = true → s.result.events = []) ∧ ∀ ev ∈ s.result.events, ev.code ≠ .sessionEnd := by
  cases h with
  | noEnd _ hr | emitted _ hr => simp [hr]
  | reported ev hev hv hr => simp [hr, hv, hev]

/-- The last sample of a run is the previous sample after it. -/
theorem runSamples_prevSample {vs : List Bool} {v : Bool} {s t : State}
    (h : runSamples (vs ++ [v]) s = .next t) : t.prevSample = v := by
  rw [runSamples_append] at h
  obtain ⟨u, -, h⟩ := andThen_eq_next.1 h
  obtain ⟨w, hstep, ⟨⟩⟩ := andThen_eq_next.1 h
  exact (everySampleStepUpdatesTheExtractor v u t hstep).1

/-- Settles O39: the PUSH completes as those of O54 do, and of its eight samples at most one ends a frame. -/
theorem readyPushCompletesWithAtMostOneFrameEnd : Obligations.ReadyPushCompletesWithAtMostOneFrameEnd := by
  intro s b hinv href hopen hempty
  obtain ⟨t, hpush, -, hsame, hindex⟩ := exec_push_of_ready b ⟨hinv, href, hopen, hempty⟩
  have hrun : runSamples (samplesOfByte b) (returnResult true [] .none s) = .next t :=
    (execPush_ready (inReady_iff.2 ⟨hopen, hempty⟩)).symm.trans hpush
  have hstart : PushProgress (samplesOfByte b).length (returnResult true [] .none s) := .noEnd hempty rfl
  obtain ⟨haccepted, hdata, hone, hapart, hnamed⟩ := (hstart.runSamples (samplesOfByte_length b).le hrun).result
  have hprev : t.prevSample = b.getLsbD 0 := runSamples_prevSample (vs := (samplesOfByte b).dropLast) hrun
  exact ⟨t, hpush, haccepted, hdata, hone, hapart, hnamed, hindex, hprev, hsame.params, hsame.input, hsame.cfg,
    hsame.sessionOpen.trans hopen⟩

end Sys2Proof.Machine

/-! PROOFS. Character mode (spec/42_character.md): what each transition rule leaves, the state graph, what keeps the
framer in IDLE, and that the test bit has no effect. -/

namespace Sys2Proof.Machine

/-! ## The rules of a character (42_character.md R192, R195 to R197) -/

/-- Settles O32: the start edge's updates are made before the end of the sample step; a data instant is the end of an
instant. -/
theorem startEdgeAndDataInstants : Obligations.StartEdgeAndDataInstants := by
  intro s e v d l w1 w4
  refine ⟨fun hfit => ?_, fun hfit => ?_⟩
  · exact finishSample_of_countersFit (s := goState .receive (characterClear (scheduleFirst s))) hfit
  · rw [← shiftIn_eq]
    exact finishInstant_of_countersFit
      (u := { s with shift := shiftIn s.shift v, bitsReceived := s.bitsReceived + 1 }) hfit rfl rfl rfl rfl

theorem report_framingError (info : EventInfo) (s : State) : report ⟨.framingError, info⟩ s =
    { s with
      errFraming := true
      result := { s.result with events := s.result.events ++ [⟨.framingError, info⟩] } } := by
  simp [report]

/-- Settles O33: after the emission or the report each of the rows clears the frame and is the end of an instant. -/
theorem stopBitEmitsOrReports : Obligations.StopBitEmitsOrReports := by
  intro s e w1 w4 hfit
  refine ⟨fun ho => ?_, ?_⟩
  · change execCRxStopOk e s = _
    rw [execCRxStopOk, emit_empty ho, andThen_next]
    exact finishInstant_of_countersFit
      (u := endCharacterFrame { s with outUnit := charUnit s.shift, outValid := true }) hfit rfl rfl rfl rfl
  · change execCRxStopErr e s = _
    rw [execCRxStopErr, takeEvent_eq, report_framingError]
    exact finishInstant_of_countersFit
      (u := endCharacterFrame
        { s with
          errFraming := true
          result :=
            { s.result with events := s.result.events ++ [⟨.framingError, .data (low7 s.shift)⟩] } })
      hfit rfl rfl rfl rfl

/-! ## The state graph (42_character.md R190) -/

/-- An edge to 1 is a rising edge (40_extractor.md R123). -/
theorem edgeOf_and_sample (v : Bool) (s : State) : (edgeOf v s && v) = (!s.prevSample && v) := by
  cases v <;> simp [edgeOf]

section CharacterGraph

variable {v : Bool} {s t : State} (hm : s.cfg.mode = true) (h : sampleStep v s = .next t)
include hm h

theorem fstate_of_characterIdle (hf : s.fstate = .idle) :
    t.fstate = if !s.prevSample && v then .receive else .idle := by
  rw [sampleStep_character_idle hm hf, edgeOf_and_sample] at h
  split at h
  next hrise =>
    obtain ⟨-, rfl⟩ := finishSample_eq_next.1 h
    rw [if_pos hrise]
    rfl
  next hrise =>
    obtain ⟨-, rfl⟩ := finishSample_eq_next.1 h
    rw [if_neg hrise]
    exact hf

section StopBit

variable (hf : s.fstate = .receive) (hd : s.sampleIndex = s.nextBit) (hb : s.bitsReceived = 7)
include hf hd hb

/-- A stop bit of 0 returns to IDLE, emits the character and reports nothing. -/
theorem lowStopBit_emits (hv : v = false) :
    t.fstate = .idle ∧ t.outValid = true ∧ t.outUnit = charUnit s.shift ∧ t.result = s.result
      ∧ t.errFraming = s.errFraming := by
  rw [sampleStep_character_receive hm hf, if_pos hd, if_pos hb, if_neg (by simp [hv])] at h
  obtain ⟨u, hu, hend⟩ := andThen_eq_next.1 h
  obtain ⟨-, rfl⟩ := emit_eq_next.1 hu
  obtain ⟨-, rfl⟩ := finishSample_eq_next.1 hend
  exact ⟨rfl, rfl, rfl, rfl, rfl⟩

/-- A stop bit of 1 returns to IDLE, sets err_framing and emits nothing. -/
theorem highStopBit_reports (hv : v = true) :
    t.fstate = .idle ∧ t.outValid = s.outValid ∧ t.outUnit = s.outUnit ∧ t.errFraming = true := by
  rw [sampleStep_character_receive hm hf, if_pos hd, if_pos hb, if_pos hv, execCRxStopErr, takeEvent_eq,
    report_framingError] at h
  obtain ⟨-, rfl⟩ := finishSample_eq_next.1 h
  exact ⟨rfl, rfl, rfl, rfl⟩

theorem fstate_of_stopBit : t.fstate = .idle := by
  cases hv : v with
  | false => exact (lowStopBit_emits hm h hf hd hb hv).1
  | true => exact (highStopBit_reports hm h hf hd hb hv).1

end StopBit

theorem fstate_of_characterReceive (hf : s.fstate = .receive) :
    t.fstate = if s.sampleIndex = s.nextBit ∧ s.bitsReceived = 7 then .idle else .receive := by
  split
  next hstop => exact fstate_of_stopBit hm h hf hstop.1 hstop.2
  next hstop =>
    rw [sampleStep_character_receive hm hf] at h
    split at h
    next hd =>
      rw [if_neg fun hb => hstop ⟨hd, hb⟩] at h
      obtain ⟨-, rfl⟩ := finishSample_eq_next.1 h
      exact hf
    next hd =>
      obtain ⟨-, rfl⟩ := finishSample_eq_next.1 h
      exact hf

theorem fstate_ne_preamble_of_character : t.fstate ≠ .preamble := by
  cases hf : s.fstate with
  | idle => rw [fstate_of_characterIdle hm h hf]; split <;> nofun
  | receive => rw [fstate_of_characterReceive hm h hf]; split <;> nofun
  | preamble => rw [sampleStep_character_preamble hm hf] at h; cases h
  | code11 => rw [sampleStep_code11 hf] at h; cases h

end CharacterGraph

/-- Settles O31: by the state the sample is stepped in, and at the stop bit by the sample. -/
theorem characterStateGraph : Obligations.CharacterStateGraph := by
  intro v s t hm h
  exact ⟨fstate_of_characterIdle hm h, fstate_of_characterReceive hm h, fstate_ne_preamble_of_character hm h,
    fun hf hd hb => ⟨fun hv => (lowStopBit_emits hm h hf hd hb hv).2,
      fun hv => (highStopBit_reports hm h hf hd hb hv).2⟩⟩

/-! ## Without a rising edge (42_character.md R203) -/

/-- The first sample of a sequence without a rising edge is none, and the rest is such a sequence after it. -/
theorem noRisingEdge_cons {v : Bool} {vs : List Bool} {s : State} :
    noRisingEdge s.prevSample (v :: vs) = true ↔ (edgeOf v s && v) = false ∧ noRisingEdge v vs = true := by
  rw [edgeOf_and_sample]
  cases hp : s.prevSample <;> simp [noRisingEdge]

/-- Settles O52: by induction on the samples; each is only counted or recorded as a falling edge. -/
theorem noRisingEdgeKeepsCharacterIdle : Obligations.NoRisingEdgeKeepsCharacterIdle := by
  intro vs
  induction vs with
  | nil => exact fun s _ _ hf _ => ⟨s, rfl, hf, rfl, rfl, rfl, rfl⟩
  | cons v vs ih =>
    intro s hw hm hf hno
    obtain ⟨hfirst, hrest⟩ := noRisingEdge_cons.1 hno
    have hstep : sampleStep v s = .next (extractorUpdate v (edgeOf v s) s) :=
      (SampleEffect.characterIdle hm hf hfirst).sampleStep_eq.trans (finishSample_unbounded hw)
    obtain ⟨t, hrun, hidle, hvalid, hunit, hresult, -⟩ := ih (extractorUpdate v (edgeOf v s) s) hw hm hf hrest
    rw [← runSamples_cons_next hstep] at hrun
    exact ⟨t, hrun, hidle, hvalid, hunit, hresult, runSamples_sampleIndex hrun⟩

/-! ## The test bit (42_character.md R199) -/

theorem finishSample_setTest (x v e : Bool) (s : State) :
    finishSample v e (setTest x s) = mapNext (setTest x) (finishSample v e s) := by
  cases hfits : indexFits (extractorUpdate v e s) with
  | true => rw [finishSample_fits hfits]; exact finishSample_fits hfits
  | false => rw [finishSample_overflows hfits]; exact finishSample_overflows hfits

/-- In Character mode no row reads or writes the test bit. -/
theorem SampleEffect.at_test {v : Bool} {s u : State} (h : SampleEffect v s u) (hm : s.cfg.mode = true) (x : Bool) :
    SampleEffect v (setTest x s) (setTest x u) := by
  cases h with
  | packetIdle hp | lock hp | preambleQuiet hp | sync hp | extend hp | lost hp | packetBit _ hp => simp [hm] at hp
  | wait hf hd => exact .wait hf hd
  | characterIdle _ hf hr => exact .characterIdle hm hf hr
  | rise _ hf he hv => exact .rise hm hf he hv
  | data _ hf hd hb => exact .data hm hf hd hb
  | stopOk _ hf hd hb hv ho => exact .stopOk hm hf hd hb hv ho
  | stopErr _ hf hd hb hv => exact .stopErr hm hf hd hb hv

/-- In Character mode a sample step has the effect of a row, or faults: in a state that is not the mode's, and at a stop
bit of 0 with a unit pending. -/
theorem sampleEffect_or_fault {s : State} (hm : s.cfg.mode = true) (v : Bool) :
    (∃ u, SampleEffect v s u)
      ∨ s.fstate = .preamble ∨ s.fstate = .code11
      ∨ (s.fstate = .receive ∧ s.sampleIndex = s.nextBit ∧ s.bitsReceived = 7 ∧ v = false
        ∧ s.outValid = true) := by
  cases hf : s.fstate with
  | preamble => exact .inr (.inl rfl)
  | code11 => exact .inr (.inr (.inl rfl))
  | idle =>
    cases hr : edgeOf v s && v with
    | false => exact .inl ⟨_, .characterIdle hm hf hr⟩
    | true =>
      obtain ⟨he, hv⟩ := Bool.and_eq_true_iff.1 hr
      exact .inl ⟨_, .rise hm hf he hv⟩
  | receive =>
    by_cases hd : s.sampleIndex = s.nextBit
    · by_cases hb : s.bitsReceived = 7
      · cases hv : v with
        | true => exact .inl ⟨_, .stopErr hm hf hd hb rfl⟩
        | false =>
          cases ho : s.outValid with
          | false => exact .inl ⟨_, .stopOk hm hf hd hb rfl ho⟩
          | true => exact .inr (.inr (.inr ⟨rfl, hd, hb, rfl, rfl⟩))
      · exact .inl ⟨_, .data hm hf hd hb⟩
    · exact .inl ⟨_, .wait hf hd⟩

theorem sampleStep_fullStop {s : State} (hm : s.cfg.mode = true) (hf : s.fstate = .receive)
    (hd : s.sampleIndex = s.nextBit) (hb : s.bitsReceived = 7) (ho : s.outValid = true) :
    sampleStep false s = .fault .outputOverrun := by
  rw [sampleStep_character_receive hm hf, if_pos hd, if_pos hb, if_neg (by simp), execCRxStopOk, emit_full ho,
    andThen_fault]

/-- A sample step in Character mode is the same at either value of the test bit, faults and overflows too. -/
theorem sampleStep_setTest {s : State} (hm : s.cfg.mode = true) (x v : Bool) :
    sampleStep v (setTest x s) = mapNext (setTest x) (sampleStep v s) := by
  rcases sampleEffect_or_fault hm v with ⟨u, hu⟩ | hf | hf | ⟨hf, hd, hb, rfl, ho⟩
  · rw [hu.sampleStep_eq, (hu.at_test hm x).sampleStep_eq]
    exact finishSample_setTest x v (edgeOf v s) u
  · rw [sampleStep_character_preamble hm hf, sampleStep_character_preamble (s := setTest x s) hm hf]
    rfl
  · rw [sampleStep_code11 hf, sampleStep_code11 (s := setTest x s) hf]
    rfl
  · rw [sampleStep_fullStop hm hf hd hb ho, sampleStep_fullStop (s := setTest x s) hm hf hd hb ho]
    rfl

theorem runSamples_setTest {vs : List Bool} {s : State} (hm : s.cfg.mode = true) (x : Bool) :
    runSamples vs (setTest x s) = mapNext (setTest x) (runSamples vs s) := by
  induction vs generalizing s with
  | nil => rfl
  | cons v vs ih =>
    rw [runSamples_cons, runSamples_cons, sampleStep_setTest hm]
    cases hstep : sampleStep v s with
    | next t => exact ih (by rw [(sampleStep_sameSettings hstep).cfg, hm])
    | fault | refused => rfl

theorem execPush_setTest {s : State} (hm : s.cfg.mode = true) (x : Bool) (b : Byte) :
    exec (.push b) (setTest x s) = mapNext (setTest x) (exec (.push b) s) := by
  cases hr : inReady s with
  | true =>
    rw [execPush_ready hr, execPush_ready (s := setTest x s) hr]
    exact runSamples_setTest (s := returnResult true [] .none s) hm x
  | false =>
    rw [execPush_refused hr, execPush_refused (s := setTest x s) hr]
    rfl

/-- Every event returned so far is a FRAMING_ERROR. -/
def OnlyFramingErrors (s : State) : Prop := ∀ ev ∈ s.result.events, ev.code = .framingError

/-- In Character mode a row reports a FRAMING_ERROR or nothing. -/
theorem SampleEffect.onlyFramingErrors {v : Bool} {s u : State} (hu : SampleEffect v s u) (hm : s.cfg.mode = true)
    (h : OnlyFramingErrors s) : OnlyFramingErrors u := by
  cases hu with
  | packetIdle hp | lock hp | preambleQuiet hp | sync hp | extend hp | lost hp | packetBit _ hp => simp [hm] at hp
  | wait | characterIdle | rise | data | stopOk => exact h
  | stopErr =>
    intro ev hev
    rcases List.mem_append.1 hev with hold | hnew
    · exact h ev hold
    · rw [List.mem_singleton.1 hnew]

theorem runSamples_onlyFramingErrors {vs : List Bool} {s t : State} (hm : s.cfg.mode = true)
    (h : OnlyFramingErrors s) (hrun : runSamples vs s = .next t) : OnlyFramingErrors t := by
  have hkeeps : ∀ v u w, u.cfg.mode = true ∧ OnlyFramingErrors u → sampleStep v u = .next w →
      w.cfg.mode = true ∧ OnlyFramingErrors w := by
    rintro v u w ⟨hmu, hu⟩ hstep
    obtain ⟨x, hx, -, rfl⟩ := sampleStep_next hstep
    exact ⟨by rw [(sampleStep_sameSettings hstep).cfg, hmu], hx.onlyFramingErrors hmu hu⟩
  exact (runSamples_keeps hkeeps ⟨hm, h⟩ hrun).2

/-- Settles O49: a PUSH that is ready runs Character-mode rules from an empty list of events, and any other returns that
list. -/
theorem testModeChangesNoCharacter : Obligations.TestModeChangesNoCharacter := by
  intro b x s hm
  refine ⟨execPush_setTest hm x b, fun t ht => ?_⟩
  cases exec_next ht with
  | push _ hr hu =>
    have hstart : OnlyFramingErrors (returnResult true [] .none s) := nofun
    exact runSamples_onlyFramingErrors (s := returnResult true [] .none s) hm hstart hu
  | pushRefused => exact nofun
  | row hi => simp [isHostOp, encode] at hi

end Sys2Proof.Machine

/-! PROOFS. Host operations (spec/43_host_ops.md): what OPEN, CLOSE and POP answer, what `emit` does with a full output
register, what ends a session and what takes a pending unit. -/

namespace Sys2Proof.Machine

/-! ## The end of a session (R233) -/

/-- An open session stays open where the instruction is not CLOSE: no row, in PUSH or alone, writes `session_open`. -/
theorem ExecEffect.staysOpen {i : Instr} {s t : State} (h : ExecEffect s i t) (hopen : s.sessionOpen = true)
    (hclose : ∀ a, i ≠ .closeSession a) : t.sessionOpen = true := by
  cases h with
  | closeSession a | closeRefused a => exact absurd rfl (hclose a)
  | openSession => rfl
  | push b _ hu => exact (unpack_sameSettings hu).sessionOpen.trans hopen
  | row _ hr => exact (performRow_sameSettings hr).sessionOpen.trans hopen
  | _ => exact hopen

theorem ExecEffect.closeSession_of_ends {i : Instr} {s t : State} (h : ExecEffect s i t)
    (hopen : s.sessionOpen = true) (hend : t.sessionOpen = false) : ∃ a, i = .closeSession a := by
  by_contra hother
  exact Bool.eq_false_iff.1 hend (h.staysOpen hopen (not_exists.1 hother))

/-- Settles O44: by the input the step takes; a hold and a sample step leave the session open. -/
theorem onlyCloseEndsASession : Obligations.OnlyCloseEndsASession := by
  refine ⟨fun i s t h => (exec_next h).closeSession_of_ends, fun s t h hopen hend => ?_⟩
  obtain ⟨-, h⟩ := step_next h
  cases h with
  | hold => exact absurd hopen (Bool.eq_false_iff.1 hend)
  | reset rest hi => exact .inl ⟨rest, hi⟩
  | command w rest hi ht =>
    obtain ⟨a, ha⟩ := ht.closeSession_of_ends hopen hend
    exact .inr ⟨w, rest, a, hi, ha⟩
  | sample v rest _ ht =>
    exact absurd ((sampleStep_sameSettings ht).sessionOpen.trans hopen) (Bool.eq_false_iff.1 hend)

/-! ## The pending unit (R226, R230) -/

/-- The unit pending in `s` is pending in `t`, as it was. -/
def KeepsPending (s t : State) : Prop := s.outValid = true → t.outValid = true ∧ t.outUnit = s.outUnit

theorem keepsPending_of_same {s t : State} (hv : t.outValid = s.outValid) (hu : t.outUnit = s.outUnit) :
    KeepsPending s t := fun ho => ⟨hv.trans ho, hu⟩

theorem keepsPending_of_empty {s t : State} (h : s.outValid = false) : KeepsPending s t := by simp [KeepsPending, h]

/-- An accepted bit that emits has found the register empty. -/
theorem BitEffect.keepsPending {s t : State} (h : BitEffect s t) : KeepsPending s t := by
  cases h with
  | packet _ _ _ _ ho => exact keepsPending_of_empty ho
  | testLine _ _ _ _ _ _ _ ho => exact keepsPending_of_empty ho
  | _ => exact keepsPending_of_same rfl rfl

/-- Of the rows only P_RX_BIT and C_RX_STOP_OK emit, whatever state they are given. -/
theorem performRow_keepsPending {i : Instr} {s t : State} (h : performRow i s = .next t) : KeepsPending s t := by
  cases i with
  | pRxBit e v l w1 w4 =>
    obtain ⟨u, hu, -, rfl⟩ := execPRxBit_next h
    exact (framePhase_next hu).keepsPending
  | cRxStopOk e w1 w4 =>
    obtain ⟨u, hu, -⟩ := andThen_eq_next.1 h
    exact keepsPending_of_empty (emit_eq_next.1 hu).1
  | stepkeyReserved | stepkeyReservedCharPre => cases h
  | nop | openSession | closeSession | push | pop | status | clrerr | reserved111 => cases h
  | _ =>
    obtain ⟨-, rfl⟩ := finishSample_eq_next.1 h
    exact keepsPending_of_same rfl rfl

/-- Settles O45: PUSH is refused with a unit pending, and no row alone writes over one. -/
theorem onlyPopTakesAPendingUnit : Obligations.OnlyPopTakesAPendingUnit := by
  intro i s t hpop h
  change KeepsPending s t
  cases exec_next h with
  | pop a | popEmpty a => exact absurd rfl (hpop a)
  | push b hr => exact keepsPending_of_empty (inReady_iff.1 hr).2
  | row _ hr => exact performRow_keepsPending hr
  | _ => exact keepsPending_of_same rfl rfl

/-- With a unit pending, completion that would emit faults. -/
theorem completeFrame_full {s : State} (ho : s.outValid = true)
    (hemits : s.cfg.test = false ∨ ∃ id, s.payload = [id, ~~~id]) :
    completeFrame s = .fault .outputOverrun := by
  cases ht : s.cfg.test with
  | false => rw [completeFrame_normal ht, emit_full ho]
  | true =>
    obtain hnormal | ⟨id, hp⟩ := hemits
    · rw [hnormal] at ht; cases ht
    · rw [completeFrame_test ht hp, if_pos rfl, emit_full ho]

/-- Settles O30: both rows emit before the end of the sample step, so no other fault comes first. -/
theorem emitIntoAFullRegisterFaults : Obligations.EmitIntoAFullRegisterFaults := by
  intro s e v l w1 w4 ho
  refine ⟨?_, fun hb hbyte hlast hemits => ?_⟩
  · change execCRxStopOk e s = _
    rw [execCRxStopOk, emit_full ho, andThen_fault]
  · rw [← acceptBit_effectiveBit_shift] at hemits
    rw [← acceptBit_bitInByte (effectiveBit v s)] at hbyte
    have hpayload : 8 < (acceptBit (effectiveBit v s) s).bitsReceived := Nat.lt_succ_of_le hb
    have hfull : completeFrame (appendByte (acceptBit (effectiveBit v s) s)) = .fault .outputOverrun := by
      refine completeFrame_full ho (hemits.imp_right ?_)
      rintro ⟨id, hp, hc⟩
      exact ⟨id, by rw [appendByte_payload, acceptBit_payload, hp, hc]; rfl⟩
    change execPRxBit e v s = _
    rw [execPRxBit, framePhase_payload hpayload, payloadPhase_complete hbyte hlast, hfull, andThen_fault, andThen_fault]

/-! ## OPEN, CLOSE and POP (R222, R223, R225) -/

/-- Settles O35: OPEN answers one whole state, whose fields the model's updates write one after another. -/
theorem openStartsASession : Obligations.OpenStartsASession :=
  fun _ _ => rfl

/-- Settles O36: CLOSE asks whether a session is open, POP whether a unit is pending, and each answers either way. -/
theorem closeAndPopComplete : Obligations.CloseAndPopComplete :=
  fun s _ => ⟨(apply_ite Host.Outcome.next (s.sessionOpen = true) _ _).symm,
    (apply_ite Host.Outcome.next (s.outValid = true) _ _).symm⟩

end Sys2Proof.Machine

/-! PROOFS. Exceptions (spec/60_exceptions.md): the events a row reports and the sticky flags they set, and that the
debug bit has no effect. -/

namespace Sys2Proof.Machine

/-! ## Sticky flags (R263) -/

/-- The sticky flags of `t` are those of `s` and those of the events `es`. -/
def FlagsFollow (s : State) (es : List Event) (t : State) : Prop :=
  t.errLength = (s.errLength || hasEvent .lengthReject es)
    ∧ t.errFraming = (s.errFraming || hasEvent .framingError es)
    ∧ t.errIntegrity = (s.errIntegrity || hasEvent .integrityFail es)

theorem flagsFollow_nil (s : State) : FlagsFollow s [] s := by simp [FlagsFollow, hasEvent]

/-- SESSION_END has no flag. -/
theorem flagsFollow_sessionEnd (s : State) : FlagsFollow s [⟨.sessionEnd, .none⟩] s := by
  simp [FlagsFollow, hasEvent]

theorem flagsFollow_report (ev : Event) (s : State) : FlagsFollow s [ev] (report ev s) := by
  simp [FlagsFollow, hasEvent]

theorem hasEvent_append (c : EventCode) (es es' : List Event) :
    hasEvent c (es ++ es') = (hasEvent c es || hasEvent c es') := List.any_append

theorem FlagsFollow.trans {s t u : State} {es es' : List Event} (h : FlagsFollow s es t) (h' : FlagsFollow t es' u) :
    FlagsFollow s (es ++ es') u := by
  obtain ⟨hl, hf, hi⟩ := h
  obtain ⟨hl', hf', hi'⟩ := h'
  simp [FlagsFollow, hasEvent_append, hl, hf, hi, hl', hf', hi', Bool.or_assoc]

/-! ## Reported events (R251 to R256) -/

/-- Between `s` and `t` the events `es` are reported: each has its info, they join those of the result in their order,
and they set their sticky flags. -/
structure Reports (s : State) (es : List Event) (t : State) : Prop where
  named : ∀ ev ∈ es, eventNamed ev
  events : t.result.events = s.result.events ++ es
  flags : FlagsFollow s es t

theorem reports_nil (s : State) : Reports s [] s := ⟨nofun, (List.append_nil _).symm, flagsFollow_nil s⟩

theorem reports_report {ev : Event} (h : eventNamed ev) (s : State) : Reports s [ev] (report ev s) :=
  ⟨List.forall_mem_singleton.2 h, rfl, flagsFollow_report ev s⟩

theorem Reports.trans {s t u : State} {es es' : List Event} (h : Reports s es t) (h' : Reports t es' u) :
    Reports s (es ++ es') u where
  named := List.forall_mem_append.2 ⟨h.named, h'.named⟩
  events := by rw [h'.events, h.events, List.append_assoc]
  flags := h.flags.trans h'.flags

theorem decodedLength_le (b : Byte) : decodedLength b ≤ 256 := by
  unfold decodedLength
  split
  · exact le_rfl
  · exact b.isLt.le

theorem eventNamed_lengthReject (b : Byte) : eventNamed ⟨.lengthReject, .length (decodedLength b)⟩ :=
  ⟨one_le_decodedLength b, decodedLength_le b⟩

theorem eventNamed_framingError (b : Byte) : eventNamed ⟨.framingError, .data (low7 b)⟩ := low7_msb b

theorem eventNamed_integrityFail {id check : Byte} (h : check ≠ id ^^^ 0xFF#8) :
    eventNamed ⟨.integrityFail, .pair id check⟩ := fun hc => h (hc.trans (complement_eq id).symm)

/-- At most one event is reported between `s` and `t`. -/
def ReportsAtMostOne (s t : State) : Prop := ∃ es, es.length ≤ 1 ∧ Reports s es t

/-- An accepted bit reports a rejected length, a failed check of a test frame, or nothing. -/
theorem BitEffect.reportsAtMostOne {s t : State} (h : BitEffect s t) : ReportsAtMostOne s t := by
  cases h with
  | rejected => exact ⟨_, le_rfl, { reports_report (eventNamed_lengthReject s.shift) s with }⟩
  | integrityFail _ _ _ _ _ _ hc => exact ⟨_, le_rfl, { reports_report (eventNamed_integrityFail hc) s with }⟩
  | _ => exact ⟨[], zero_le_one, { reports_nil s with }⟩

/-- Of the rows only P_RX_BIT and C_RX_STOP_ERR report, whatever state they are given. -/
theorem performRow_reportsAtMostOne {i : Instr} {s t : State} (h : performRow i s = .next t) :
    ReportsAtMostOne s t := by
  cases i with
  | pRxBit e v l w1 w4 =>
    obtain ⟨u, hu, -, rfl⟩ := execPRxBit_next h
    obtain ⟨es, hlen, hes⟩ := (framePhase_next hu).reportsAtMostOne
    exact ⟨es, hlen, { hes with }⟩
  | cRxStopErr e w1 w4 =>
    obtain ⟨-, rfl⟩ := finishSample_eq_next.1 h
    exact ⟨_, le_rfl, { reports_report (eventNamed_framingError s.shift) s with }⟩
  | cRxStopOk e w1 w4 =>
    obtain ⟨u, hu, hend⟩ := andThen_eq_next.1 h
    obtain ⟨-, rfl⟩ := emit_eq_next.1 hu
    obtain ⟨-, rfl⟩ := finishSample_eq_next.1 hend
    exact ⟨[], zero_le_one, { reports_nil s with }⟩
  | stepkeyReserved | stepkeyReservedCharPre => cases h
  | nop | openSession | closeSession | push | pop | status | clrerr | reserved111 => cases h
  | _ =>
    obtain ⟨-, rfl⟩ := finishSample_eq_next.1 h
    exact ⟨[], zero_le_one, { reports_nil s with }⟩

theorem unpack_reports {b : Byte} {s t : State} (h : unpack b s = .next t) : ∃ es, Reports s es t := by
  refine runSamples_keeps (P := fun u => ∃ es, Reports s es u) ?_ ⟨[], reports_nil s⟩ h
  rintro v u w ⟨es, hes⟩ hstep
  obtain ⟨es', -, hes'⟩ := performRow_reportsAtMostOne hstep
  exact ⟨es ++ es', hes.trans hes'⟩

/-- A PUSH returns the events its sample steps report. -/
theorem push_reports {b : Byte} {s t : State} (h : unpack b (returnResult true [] .none s) = .next t) :
    (∀ ev ∈ t.result.events, eventNamed ev) ∧ FlagsFollow s t.result.events t := by
  obtain ⟨es, hnamed, hevents, hflags⟩ := unpack_reports h
  obtain rfl : t.result.events = es := hevents
  exact ⟨hnamed, hflags⟩

/-- A host operation other than OPEN and CLRERR, which clear the flags, sets those of the events it returns. -/
theorem ExecEffect.flagsFollow {i : Instr} {s t : State} (h : ExecEffect s i t)
    (hi : ∀ a, i ≠ .openSession a ∧ i ≠ .clrerr a) (hhost : isHostOp i = true) :
    FlagsFollow s t.result.events t := by
  cases h with
  | openSession a => exact absurd rfl (hi a).1
  | clrerr a => exact absurd rfl (hi a).2
  | closeSession => exact flagsFollow_sessionEnd s
  | push b _ hu => exact (push_reports hu).2
  | row hrow => rw [hrow] at hhost; cases hhost
  | _ => exact flagsFollow_nil s

/-- Settles O46: by what the instruction does; a row is looked at alone, a PUSH as its sample steps. -/
theorem stickyFlagsFollowTheEvents : Obligations.StickyFlagsFollowTheEvents := by
  intro i s t h
  refine ⟨?_, (exec_next h).flagsFollow, fun hrow => ?_⟩
  · rintro ⟨a, rfl | rfl⟩ <;> cases h <;> exact ⟨rfl, rfl, rfl⟩
  · rw [exec_eq_performRow hrow] at h
    obtain ⟨es, hlen, hes⟩ := performRow_reportsAtMostOne h
    exact ⟨es, hes.events, hlen, hes.flags⟩

/-- Settles O47: a row adds named events to the result, a host operation begins a new one. -/
theorem eventsCarryTheirInfo : Obligations.EventsCarryTheirInfo := by
  intro i s t hs h
  cases exec_next h with
  | closeSession => exact List.forall_mem_singleton.2 trivial
  | push b _ hu => exact (push_reports hu).1
  | row _ hr =>
    obtain ⟨es, -, hes⟩ := performRow_reportsAtMostOne hr
    exact hes.events ▸ List.forall_mem_append.2 ⟨hs, hes.named⟩
  | _ => exact nofun

/-! ## The debug bit (R270) -/

/-- A choice commutes with `f` where each of its ways does. -/
theorem mapNext_ite {c : Prop} [Decidable c] {f : State → State} {x y x' y' : Result} (hx : x' = mapNext f x)
    (hy : y' = mapNext f y) : (if c then x' else y') = mapNext f (if c then x else y) := by
  rw [apply_ite (mapNext f), hx, hy]

/-- The update before the end of a sample step may be written on either side of `setDebug`. -/
theorem finishSample_setDebug {d v e : Bool} {s u : State} (hu : u = setDebug d s) :
    finishSample v e u = mapNext (setDebug d) (finishSample v e s) := by
  subst hu
  exact mapNext_ite rfl rfl

section Debug

variable (d : Bool) (s : State)

theorem emit_setDebug (u : OutUnit) : emit u (setDebug d s) = mapNext (setDebug d) (emit u s) :=
  mapNext_ite rfl rfl

theorem lengthPhase_setDebug : lengthPhase (setDebug d s) = setDebug d (lengthPhase s) := by
  by_cases hb : s.bitsReceived = 8
  · cases hr : lengthRejected (decodedLength s.shift) s with
    | true => rw [lengthPhase_rejects hb hr]; exact lengthPhase_rejects hb hr
    | false => rw [lengthPhase_accepts hb hr]; exact lengthPhase_accepts hb hr
  · rw [lengthPhase_early hb]; exact lengthPhase_early hb

theorem completeFrame_setDebug : completeFrame (setDebug d s) = mapNext (setDebug d) (completeFrame s) := by
  refine mapNext_ite ?_ (emit_setDebug d s _)
  rw [setDebug_payload]
  split
  · exact mapNext_ite (emit_setDebug d s _) rfl
  · rfl

theorem payloadPhase_setDebug : payloadPhase (setDebug d s) = mapNext (setDebug d) (payloadPhase s) := by
  refine mapNext_ite (mapNext_ite ?_ rfl) rfl
  change andThen (completeFrame (setDebug d (appendByte s))) _ = _
  rw [completeFrame_setDebug]
  exact mapNext_andThen fun _ => rfl

theorem framePhase_setDebug : framePhase (setDebug d s) = mapNext (setDebug d) (framePhase s) :=
  mapNext_ite (congrArg _ (lengthPhase_setDebug d s)) (payloadPhase_setDebug d s)

theorem performRow_setDebug (i : Instr) : performRow i (setDebug d s) = mapNext (setDebug d) (performRow i s) := by
  cases i with
  | pRxBit e v l w1 w4 =>
    change andThen (framePhase (setDebug d (acceptBit (effectiveBit v s) s))) _ = _
    rw [framePhase_setDebug]
    exact mapNext_andThen fun t => finishSample_setDebug (by rfl)
  | cRxStopOk e w1 w4 =>
    change andThen (emit (charUnit s.shift) (setDebug d s)) _ = _
    rw [emit_setDebug]
    exact mapNext_andThen fun t => finishSample_setDebug (by rfl)
  | stepkeyReserved | stepkeyReservedCharPre => rfl
  | nop | openSession | closeSession | push | pop | status | clrerr | reserved111 => rfl
  | _ => exact finishSample_setDebug (by rfl)

/-- The step key holds no debug bit. -/
theorem sampleStep_setDebug (v : Bool) : sampleStep v (setDebug d s) = mapNext (setDebug d) (sampleStep v s) :=
  performRow_setDebug d s (decodeStepKey (assembleKey v s))

theorem runSamples_setDebug (vs : List Bool) :
    runSamples vs (setDebug d s) = mapNext (setDebug d) (runSamples vs s) := by
  induction vs generalizing s with
  | nil => rfl
  | cons v vs ih =>
    rw [runSamples_cons, runSamples_cons, sampleStep_setDebug]
    exact mapNext_andThen ih

theorem exec_setDebug {i : Instr} (hi : ∀ a, i ≠ .openSession a ∧ i ≠ .status a) :
    exec i (setDebug d s) = mapNext (setDebug d) (exec i s) := by
  cases hrow : isHostOp i with
  | false => rw [exec_eq_performRow hrow, exec_eq_performRow hrow, performRow_setDebug]
  | true =>
    cases i with
    | openSession a => exact absurd rfl (hi a).1
    | status a => exact absurd rfl (hi a).2
    | closeSession | pop => exact mapNext_ite rfl rfl
    | push b => exact mapNext_ite (runSamples_setDebug d (returnResult true [] .none s) (samplesOfByte b)) rfl
    | nop | clrerr | reserved111 => rfl
    | _ => cases hrow

theorem statusWord_setDebug_debug : (statusWord (setDebug d s)).getLsbD 10 = d := by
  simp [statusWord_getLsbD, BitVec.getLsbD_append, -Nat.reduceAdd, -BitVec.getLsbD_eq_getElem]

/-- Below bit 10 the debug field is not reached, and past it the field is over. -/
theorem statusWord_setDebug_other {n : Nat} (hn : n ≠ 10) :
    (statusWord (setDebug d s)).getLsbD n = (statusWord s).getLsbD n := by
  simp only [statusWord_getLsbD, BitVec.getLsbD_append, BitVec.getLsbD_ofBool, inReady, setDebug_sessionOpen,
    setDebug_fstate, setDebug_outValid, setDebug_errLength, setDebug_errFraming, setDebug_errIntegrity, setDebug_cfg]
  simp only [Nat.sub_sub, Nat.reduceAdd]
  obtain hlow | hhigh := hn.lt_or_gt
  · have h9 : n - 9 < 1 := by omega
    simp only [h9, if_true]
  · have h10 : n - 10 ≠ 0 := by omega
    simp only [h10, decide_false, Bool.false_and]

end Debug

/-- Settles O48: no row reads the debug bit, and OPEN writes the whole configuration. -/
theorem debugChangesNothing : Obligations.DebugChangesNothing :=
  fun d s => ⟨fun _ => exec_setDebug d s, fun _ => rfl, statusWord_setDebug_debug d s,
    fun _ => statusWord_setDebug_other d s⟩

end Sys2Proof.Machine

/-! PROOFS. The default first offset at `P = 1` (spec/70_reset_and_hazards.md R302): the first data sample of a
character frame is passed over, so what is received is the frame of the value's left shift, with the sample after the
frame as its stop cell. -/

namespace Sys2Proof.Machine

/-! ## The sample passed over -/

/-- Past the start cell and one sample, the line holds the data cells of the left shift, then the next sample. -/
theorem characterFrame_one_append (c : BitVec 7) (next : Bool) : characterFrame 1 c ++ [next]
    = [true, c.getLsbD 6] ++ (cells 1 false (bitsOfChar (c <<< 1)) ++ cell 1 next) := by
  simp [characterFrame, cells, cell, bitsOfChar]

/-- With a FIRST_OFFSET past 1 the sample after the rising edge is no instant. -/
theorem runsTo_riseAndNext {s : State} (hw : s.params.indexWidth = none) (hm : s.cfg.mode = true)
    (hf : s.fstate = .idle) (hp : s.prevSample = false) (hoffset : 1 < s.params.firstOffset) (v : Bool) :
    RunsTo [true, v] s (goState .receive (characterClear s)) (s.sampleIndex + 2)
      (s.sampleIndex + s.params.firstOffset) := by
  have hrise : ∃ l, sampleStep true s = .next (setTiming true l (s.sampleIndex + 1)
      (s.sampleIndex + s.params.firstOffset) (goState .receive (characterClear s))) :=
    ⟨_, (SampleEffect.rise hm hf (by simp [edgeOf, hp]) rfl).sampleStep_eq.trans (finishSample_unbounded hw)⟩
  obtain ⟨l, hrise⟩ := hrise
  have hnext := sampleStep_wait (v := v) (s := setTiming true l (s.sampleIndex + 1)
    (s.sampleIndex + s.params.firstOffset) (goState .receive (characterClear s))) hw rfl
    (by simp only [setTiming_sampleIndex, setTiming_nextBit]; omega)
  exact ⟨v, _, (runSamples_cons_next hrise).trans (runSamples_cons_next hnext)⟩

/-- At `P = 1` with FIRST_OFFSET 2, a character frame and the sample after it run as the data cells of the left shift
and a stop cell, from a state whose next sample is an instant. -/
theorem runSamples_characterFrame_late {s : State} (hw : s.params.indexWidth = none) (hm : s.cfg.mode = true)
    (hf : s.fstate = .idle) (hp : s.prevSample = false) (hperiod : s.params.bitPeriod = 1)
    (hoffset : s.params.firstOffset = 2) (c : BitVec 7) (next : Bool) :
    ∃ w, InCell 0 w ∧ (∃ p l i n, w = setTiming p l i n (goState .receive (characterClear s)))
      ∧ runSamples (characterFrame 1 c ++ [next]) s
        = runSamples (cells w.params.bitPeriod false (bitsOfChar (c <<< 1)) ++ cell w.params.bitPeriod next) w := by
  obtain ⟨p, l, hskip⟩ := runsTo_riseAndNext hw hm hf hp (by omega) (c.getLsbD 6)
  refine ⟨setTiming p l (s.sampleIndex + 2) (s.sampleIndex + s.params.firstOffset)
    (goState .receive (characterClear s)), ⟨hw, rfl, by simp [hoffset], hperiod ▸ Nat.zero_lt_one⟩, ⟨p, l, _, _, rfl⟩, ?_⟩
  rw [characterFrame_one_append, runSamples_append_next hskip, setTiming_params, goState_params,
    characterClear_params, hperiod]

/-! ## A stop cell at 1 (42_character.md R197) -/

theorem InstantEffect.stopErr {s : State} (hm : s.cfg.mode = true) (hf : s.fstate = .receive)
    (hb : s.bitsReceived = 7) :
    InstantEffect true s (endCharacterFrame (report ⟨.framingError, .data (low7 s.shift)⟩ s)) :=
  fun _ _ _ => .stopErr hm hf rfl hb rfl

/-- The seven bits of a character, accepted in order, are the data of its FRAMING_ERROR. -/
theorem low7_bitsOfChar (c : BitVec 7) : low7 ((bitsOfChar c).foldl shiftIn 0) = c.setWidth 8 := by
  simpa [charUnit] using charUnit_bitsOfChar c

/-- The data cells of a character and a stop cell at 1. -/
theorem runSamples_dataAndStopErr {r : Nat} {s : State} (hc : InCell r s) (hm : s.cfg.mode = true)
    (hb : s.bitsReceived = 0) (hs : s.shift = 0) (c : BitVec 7) :
    ∃ t, runSamples (cells s.params.bitPeriod false (bitsOfChar c) ++ cell s.params.bitPeriod true) s = .next t
      ∧ t.outValid = s.outValid ∧ t.errFraming = true ∧ t.fstate = .idle
      ∧ t.result = { s.result with events := s.result.events ++ [⟨.framingError, .data (c.setWidth 8)⟩] } := by
  obtain ⟨p, l, hdata⟩ := runsTo_bitCells hc (bitsOfChar c) (by rw [hb]; simp [bitsOfChar])
  rw [show lineInvert s = false by simp [lineInvert, hm]] at hdata
  rw [runSamples_append_next hdata, acceptBits_eq, hb, hs]
  have hstopCell := hc.later (u := { s with bitsReceived := 7, shift := (bitsOfChar c).foldl shiftIn 0 }) rfl
    hc.receive p l ((bitsOfChar c).length * s.params.bitPeriod)
  obtain ⟨l', hstop⟩ := runSamples_cell hstopCell (.stopErr hm hc.receive rfl) (.inl rfl)
  refine ⟨_, hstop, rfl, Bool.or_true _, rfl, ?_⟩
  rw [← low7_bitsOfChar]
  rfl

/-- Settles O58: past the skipped sample, the frame of the left shift is received, its stop cell the sample after the
frame. -/
theorem defaultOffsetAtPeriodOneReadsLate : Obligations.DefaultOffsetAtPeriodOneReadsLate := by
  intro s c next href hm hf hp ho hperiod hoffset
  obtain ⟨_, hc, ⟨p, l, i, n, rfl⟩, hlate⟩ :=
    runSamples_characterFrame_late href.unbounded hm hf hp hperiod hoffset c next
  cases next with
  | false =>
    obtain ⟨t, hrest, hvalid, hunit, hidle, -, hresult⟩ := runSamples_dataAndStop hc hm rfl rfl ho (c <<< 1)
    have hrun := hlate.trans hrest
    exact ⟨t, hrun, hidle, runSamples_sampleIndex hrun, fun _ => ⟨hvalid, hunit, hresult⟩, nofun⟩
  | true =>
    obtain ⟨t, hrest, hvalid, herr, hidle, hresult⟩ := runSamples_dataAndStopErr hc hm rfl rfl (c <<< 1)
    have hrun := hlate.trans hrest
    exact ⟨t, hrun, hidle, runSamples_sampleIndex hrun, nofun, fun _ => ⟨hvalid.trans ho, herr, hresult⟩⟩

end Sys2Proof.Machine
